-- ==== Sys2Proof/Word.lean ====
section
/-! DEFINITION. The word types of the MC6800: 8-bit data, 16-bit addresses and registers (R6). -/

namespace Sys2Proof

/-- A byte: the unit of memory and of the accumulators (R10, R40). -/
abbrev Byte := BitVec 8

/-- A 16-bit value: an address, or a 16-bit register (R10, R40). -/
abbrev Word := BitVec 16

end Sys2Proof
end

