-- ==== Sys2Proof/Config.lean ====
section
/-! DEFINITION. What the spec leaves open: its open parameters and the free values. None has a body,
so nothing can be proved of its value. -/

namespace Sys2Proof

/-- `CPX_MS_BORROW` (R190, file 92): whether the high-byte subtraction of CPX sees the borrow of the
low byte. Open parameter of the spec, log 7. -/
opaque Config.cpxMsBorrow : Bool

/-- `RTI_I_CLEAR_DELAYED` (R281, file 92): whether an RTI that changes I from 1 to 0 delays IRQ by
one instruction. Open parameter of the spec, log 8. -/
opaque Config.rtiIClearDelayed : Bool

/-- A free bit for each draw: V after DAA (R128, log 5), flags after a reset sequence (R34, log 4). -/
opaque Config.freeBit : Nat → Bool

/-- A free byte for each draw: the low byte of an overlapped JSR target (R227, log 6), A and B after
a reset sequence (R34, log 4). -/
opaque Config.freeByte : Nat → Byte

/-- A free byte for each read: what a read of an address gets where the platform has nothing, or a device
whose answer the environment does not give (R44, D2, U11, log 31). -/
opaque Config.openBus : Nat → Byte

/-- A free 16-bit value for each draw: X and SP after a reset sequence (R34, log 4). -/
opaque Config.freeWord : Nat → Word

end Sys2Proof
end

