-- ==== Sys2Proof/Syntax.lean ====
section
/-! DEFINITION. The instruction set as data: one constructor of `Instr` for each mnemonic of
spec/opcode_table.json. The addressing modes of a mnemonic are the argument's constructors, so an
assigned row of the table is one constructor of `Instr` with one mode (log 34). -/

namespace Sys2Proof

/-- A memory operand of the modes DIR, IND and EXT (R85, R86, R87). -/
inductive Mem where
  | dir (addr8 : Byte)
  | ind (off8 : Byte)
  | ext (addr16 : Word)
deriving DecidableEq, Repr

/-- The 8-bit source of a dual-operand instruction: IMM, or memory (R101). -/
inductive Src8 where
  | imm (imm8 : Byte)
  | mem (m : Mem)
deriving DecidableEq, Repr

/-- The 16-bit source of CPX, LDX and LDS: IMM, or memory (R102). -/
inductive Src16 where
  | imm (imm16 : Word)
  | mem (m : Mem)
deriving DecidableEq, Repr

/-- The operand of the read-modify-write instructions, JMP and JSR: IND or EXT only (R90). -/
inductive IndExt where
  | ind (off8 : Byte)
  | ext (addr16 : Word)
deriving DecidableEq, Repr

/-- The instructions (R94), with the accumulator in the name as the opcode table has it. The last
constructor stands for the 59 unassigned opcodes of the table (R92). -/
inductive Instr where
  /-- No Operation, R228. -/
  | nop
  /-- A to CCR, R256. -/
  | tap
  /-- CCR to A, R257. -/
  | tpa
  /-- Increment X, R191. -/
  | inx
  /-- Decrement X, R193. -/
  | dex
  /-- Clear Overflow, R252. -/
  | clv
  /-- Set Overflow, R255. -/
  | sev
  /-- Clear Carry, R250. -/
  | clc
  /-- Set Carry, R253. -/
  | sec
  /-- Clear Interrupt Mask, R251. -/
  | cli
  /-- Set Interrupt Mask, R254. -/
  | sei
  /-- Subtract Accumulators, R115. -/
  | sba
  /-- Compare Accumulators, R117. -/
  | cba
  /-- A to B, R172. -/
  | tab
  /-- B to A, R173. -/
  | tba
  /-- Decimal Adjust A, R128. -/
  | daa
  /-- Add Accumulators, R112. -/
  | aba
  /-- Branch Always, R210. -/
  | bra (rel : Byte)
  /-- Branch If Higher, R216. -/
  | bhi (rel : Byte)
  /-- Branch If Lower Or Same, R218. -/
  | bls (rel : Byte)
  /-- Branch If Carry Clear, R211. -/
  | bcc (rel : Byte)
  /-- Branch If Carry Set, R212. -/
  | bcs (rel : Byte)
  /-- Branch If Not Equal Zero, R221. -/
  | bne (rel : Byte)
  /-- Branch If = Zero, R213. -/
  | beq (rel : Byte)
  /-- Branch If Overflow Clear, R222. -/
  | bvc (rel : Byte)
  /-- Branch If Overflow Set, R223. -/
  | bvs (rel : Byte)
  /-- Branch If Plus, R224. -/
  | bpl (rel : Byte)
  /-- Branch If Minus, R220. -/
  | bmi (rel : Byte)
  /-- Branch If at least Zero (signed), R214. -/
  | bge (rel : Byte)
  /-- Branch If below Zero (signed), R219. -/
  | blt (rel : Byte)
  /-- Branch If above Zero (signed), R215. -/
  | bgt (rel : Byte)
  /-- Branch If at most Zero (signed), R217. -/
  | ble (rel : Byte)
  /-- SP + 1 to X, R200. -/
  | tsx
  /-- Increment SP, R192. -/
  | ins
  /-- Pull Data (accumulator A), R175. -/
  | pulA
  /-- Pull Data (accumulator B), R175. -/
  | pulB
  /-- Decrement SP, R194. -/
  | des
  /-- X - 1 to SP, R199. -/
  | txs
  /-- Push Data (accumulator A), R174. -/
  | pshA
  /-- Push Data (accumulator B), R174. -/
  | pshB
  /-- Return From Subroutine, R229. -/
  | rts
  /-- Return From Interrupt, R230. -/
  | rti
  /-- Wait for Interrupt, R232. -/
  | wai
  /-- Software Interrupt, R231. -/
  | swi
  /-- Negate (accumulator A), R118. -/
  | negA
  /-- Complement (accumulator A), R144. -/
  | comA
  /-- Shift Right, Logic (accumulator A), R151. -/
  | lsrA
  /-- Rotate Right (accumulator A), R148. -/
  | rorA
  /-- Shift Right, Arithmetic (accumulator A), R150. -/
  | asrA
  /-- Shift Left, Arithmetic (accumulator A), R149. -/
  | aslA
  /-- Rotate Left (accumulator A), R147. -/
  | rolA
  /-- Decrement (accumulator A), R120. -/
  | decA
  /-- Increment (accumulator A), R119. -/
  | incA
  /-- Test, Zero or Minus (accumulator A), R146. -/
  | tstA
  /-- Clear (accumulator A), R145. -/
  | clrA
  /-- Negate (accumulator B), R118. -/
  | negB
  /-- Complement (accumulator B), R144. -/
  | comB
  /-- Shift Right, Logic (accumulator B), R151. -/
  | lsrB
  /-- Rotate Right (accumulator B), R148. -/
  | rorB
  /-- Shift Right, Arithmetic (accumulator B), R150. -/
  | asrB
  /-- Shift Left, Arithmetic (accumulator B), R149. -/
  | aslB
  /-- Rotate Left (accumulator B), R147. -/
  | rolB
  /-- Decrement (accumulator B), R120. -/
  | decB
  /-- Increment (accumulator B), R119. -/
  | incB
  /-- Test, Zero or Minus (accumulator B), R146. -/
  | tstB
  /-- Clear (accumulator B), R145. -/
  | clrB
  /-- Negate (memory), R118. -/
  | neg (m : IndExt)
  /-- Complement (memory), R144. -/
  | com (m : IndExt)
  /-- Shift Right, Logic (memory), R151. -/
  | lsr (m : IndExt)
  /-- Rotate Right (memory), R148. -/
  | ror (m : IndExt)
  /-- Shift Right, Arithmetic (memory), R150. -/
  | asr (m : IndExt)
  /-- Shift Left, Arithmetic (memory), R149. -/
  | asl (m : IndExt)
  /-- Rotate Left (memory), R147. -/
  | rol (m : IndExt)
  /-- Decrement (memory), R120. -/
  | dec (m : IndExt)
  /-- Increment (memory), R119. -/
  | inc (m : IndExt)
  /-- Test, Zero or Minus (memory), R146. -/
  | tst (m : IndExt)
  /-- Jump, R226. -/
  | jmp (m : IndExt)
  /-- Clear (memory), R145. -/
  | clr (m : IndExt)
  /-- Subtract (accumulator A), R113. -/
  | subA (m : Src8)
  /-- Compare (accumulator A), R116. -/
  | cmpA (m : Src8)
  /-- Subtract with Carry (accumulator A), R114. -/
  | sbcA (m : Src8)
  /-- And (accumulator A), R140. -/
  | andA (m : Src8)
  /-- Bit Test (accumulator A), R141. -/
  | bitA (m : Src8)
  /-- Load Accumulator (accumulator A), R170. -/
  | ldaA (m : Src8)
  /-- Exclusive OR (accumulator A), R142. -/
  | eorA (m : Src8)
  /-- Add with Carry (accumulator A), R111. -/
  | adcA (m : Src8)
  /-- Or, Inclusive (accumulator A), R143. -/
  | oraA (m : Src8)
  /-- Add (accumulator A), R110. -/
  | addA (m : Src8)
  /-- Compare X, R190. -/
  | cpx (m : Src16)
  /-- Branch To Subroutine, R225. -/
  | bsr (rel : Byte)
  /-- Load SP, R196. -/
  | lds (m : Src16)
  /-- Store Accumulator (accumulator A), R171. -/
  | staA (m : Mem)
  /-- Store SP, R198. -/
  | sts (m : Mem)
  /-- Jump To Subroutine, R227. -/
  | jsr (m : IndExt)
  /-- Subtract (accumulator B), R113. -/
  | subB (m : Src8)
  /-- Compare (accumulator B), R116. -/
  | cmpB (m : Src8)
  /-- Subtract with Carry (accumulator B), R114. -/
  | sbcB (m : Src8)
  /-- And (accumulator B), R140. -/
  | andB (m : Src8)
  /-- Bit Test (accumulator B), R141. -/
  | bitB (m : Src8)
  /-- Load Accumulator (accumulator B), R170. -/
  | ldaB (m : Src8)
  /-- Exclusive OR (accumulator B), R142. -/
  | eorB (m : Src8)
  /-- Add with Carry (accumulator B), R111. -/
  | adcB (m : Src8)
  /-- Or, Inclusive (accumulator B), R143. -/
  | oraB (m : Src8)
  /-- Add (accumulator B), R110. -/
  | addB (m : Src8)
  /-- Load X, R195. -/
  | ldx (m : Src16)
  /-- Store Accumulator (accumulator B), R171. -/
  | staB (m : Mem)
  /-- Store X, R197. -/
  | stx (m : Mem)
  /-- An opcode that the table leaves unassigned, R92. -/
  | unassigned (opcode : Byte)
deriving DecidableEq, Repr

end Sys2Proof
end

