-- ==== Sys2Proof/Decode.lean ====
section
/-! DEFINITION. Decoding and encoding. The opcode map is the table of R93, row for row and cell for
cell; decoding is a case on the first byte alone (R80). The byte-order helpers stand here (R46). -/

namespace Sys2Proof

/-- The high byte of a 16-bit value, `v[15:8]` (R9). -/
def hi8 (w : Word) : Byte := w.extractLsb' 8 8

/-- The low byte of a 16-bit value, `v[7:0]` (R9). -/
def lo8 (w : Word) : Byte := w.extractLsb' 0 8

/-- `hi : lo`, the high byte first (R46). -/
def joinBytes (hi lo : Byte) : Word := hi ++ lo

/-- A cell of the opcode map: the format of R95 with the instruction its operand bytes make, or the
star of an unassigned opcode. -/
inductive MapCell where
  | star
  | inh (i : Instr)
  | acc (i : Instr)
  | imm8 (f : Byte → Instr)
  | imm16 (f : Word → Instr)
  | dir (f : Byte → Instr)
  | ind (f : Byte → Instr)
  | ext (f : Word → Instr)
  | rel (f : Byte → Instr)

/-- Row 0x of R93. -/
def opcodeRow0 : List MapCell :=
  [.star, .inh .nop, .star, .star, .star, .star, .inh .tap, .inh .tpa, .inh .inx, .inh .dex,
   .inh .clv, .inh .sev, .inh .clc, .inh .sec, .inh .cli, .inh .sei]

/-- Row 1x of R93. -/
def opcodeRow1 : List MapCell :=
  [.inh .sba, .inh .cba, .star, .star, .star, .star, .inh .tab, .inh .tba, .star, .inh .daa,
   .star, .inh .aba, .star, .star, .star, .star]

/-- Row 2x of R93. -/
def opcodeRow2 : List MapCell :=
  [.rel .bra, .star, .rel .bhi, .rel .bls, .rel .bcc, .rel .bcs, .rel .bne, .rel .beq,
   .rel .bvc, .rel .bvs, .rel .bpl, .rel .bmi, .rel .bge, .rel .blt, .rel .bgt, .rel .ble]

/-- Row 3x of R93. -/
def opcodeRow3 : List MapCell :=
  [.inh .tsx, .inh .ins, .acc .pulA, .acc .pulB, .inh .des, .inh .txs, .acc .pshA,
   .acc .pshB, .star, .inh .rts, .star, .inh .rti, .star, .star, .inh .wai, .inh .swi]

/-- Row 4x of R93. -/
def opcodeRow4 : List MapCell :=
  [.acc .negA, .star, .star, .acc .comA, .acc .lsrA, .star, .acc .rorA, .acc .asrA,
   .acc .aslA, .acc .rolA, .acc .decA, .star, .acc .incA, .acc .tstA, .star, .acc .clrA]

/-- Row 5x of R93. -/
def opcodeRow5 : List MapCell :=
  [.acc .negB, .star, .star, .acc .comB, .acc .lsrB, .star, .acc .rorB, .acc .asrB,
   .acc .aslB, .acc .rolB, .acc .decB, .star, .acc .incB, .acc .tstB, .star, .acc .clrB]

/-- Row 6x of R93. -/
def opcodeRow6 : List MapCell :=
  [.ind (.neg <| .ind ·), .star, .star, .ind (.com <| .ind ·), .ind (.lsr <| .ind ·), .star,
   .ind (.ror <| .ind ·), .ind (.asr <| .ind ·), .ind (.asl <| .ind ·),
   .ind (.rol <| .ind ·), .ind (.dec <| .ind ·), .star, .ind (.inc <| .ind ·),
   .ind (.tst <| .ind ·), .ind (.jmp <| .ind ·), .ind (.clr <| .ind ·)]

/-- Row 7x of R93. -/
def opcodeRow7 : List MapCell :=
  [.ext (.neg <| .ext ·), .star, .star, .ext (.com <| .ext ·), .ext (.lsr <| .ext ·), .star,
   .ext (.ror <| .ext ·), .ext (.asr <| .ext ·), .ext (.asl <| .ext ·),
   .ext (.rol <| .ext ·), .ext (.dec <| .ext ·), .star, .ext (.inc <| .ext ·),
   .ext (.tst <| .ext ·), .ext (.jmp <| .ext ·), .ext (.clr <| .ext ·)]

/-- Row 8x of R93. -/
def opcodeRow8 : List MapCell :=
  [.imm8 (.subA <| .imm ·), .imm8 (.cmpA <| .imm ·), .imm8 (.sbcA <| .imm ·), .star,
   .imm8 (.andA <| .imm ·), .imm8 (.bitA <| .imm ·), .imm8 (.ldaA <| .imm ·), .star,
   .imm8 (.eorA <| .imm ·), .imm8 (.adcA <| .imm ·), .imm8 (.oraA <| .imm ·),
   .imm8 (.addA <| .imm ·), .imm16 (.cpx <| .imm ·), .rel .bsr, .imm16 (.lds <| .imm ·),
   .star]

/-- Row 9x of R93. -/
def opcodeRow9 : List MapCell :=
  [.dir (.subA <| .mem <| .dir ·), .dir (.cmpA <| .mem <| .dir ·),
   .dir (.sbcA <| .mem <| .dir ·), .star, .dir (.andA <| .mem <| .dir ·),
   .dir (.bitA <| .mem <| .dir ·), .dir (.ldaA <| .mem <| .dir ·), .dir (.staA <| .dir ·),
   .dir (.eorA <| .mem <| .dir ·), .dir (.adcA <| .mem <| .dir ·),
   .dir (.oraA <| .mem <| .dir ·), .dir (.addA <| .mem <| .dir ·),
   .dir (.cpx <| .mem <| .dir ·), .star, .dir (.lds <| .mem <| .dir ·), .dir (.sts <| .dir ·)]

/-- Row Ax of R93. -/
def opcodeRowA : List MapCell :=
  [.ind (.subA <| .mem <| .ind ·), .ind (.cmpA <| .mem <| .ind ·),
   .ind (.sbcA <| .mem <| .ind ·), .star, .ind (.andA <| .mem <| .ind ·),
   .ind (.bitA <| .mem <| .ind ·), .ind (.ldaA <| .mem <| .ind ·), .ind (.staA <| .ind ·),
   .ind (.eorA <| .mem <| .ind ·), .ind (.adcA <| .mem <| .ind ·),
   .ind (.oraA <| .mem <| .ind ·), .ind (.addA <| .mem <| .ind ·),
   .ind (.cpx <| .mem <| .ind ·), .ind (.jsr <| .ind ·), .ind (.lds <| .mem <| .ind ·),
   .ind (.sts <| .ind ·)]

/-- Row Bx of R93. -/
def opcodeRowB : List MapCell :=
  [.ext (.subA <| .mem <| .ext ·), .ext (.cmpA <| .mem <| .ext ·),
   .ext (.sbcA <| .mem <| .ext ·), .star, .ext (.andA <| .mem <| .ext ·),
   .ext (.bitA <| .mem <| .ext ·), .ext (.ldaA <| .mem <| .ext ·), .ext (.staA <| .ext ·),
   .ext (.eorA <| .mem <| .ext ·), .ext (.adcA <| .mem <| .ext ·),
   .ext (.oraA <| .mem <| .ext ·), .ext (.addA <| .mem <| .ext ·),
   .ext (.cpx <| .mem <| .ext ·), .ext (.jsr <| .ext ·), .ext (.lds <| .mem <| .ext ·),
   .ext (.sts <| .ext ·)]

/-- Row Cx of R93. -/
def opcodeRowC : List MapCell :=
  [.imm8 (.subB <| .imm ·), .imm8 (.cmpB <| .imm ·), .imm8 (.sbcB <| .imm ·), .star,
   .imm8 (.andB <| .imm ·), .imm8 (.bitB <| .imm ·), .imm8 (.ldaB <| .imm ·), .star,
   .imm8 (.eorB <| .imm ·), .imm8 (.adcB <| .imm ·), .imm8 (.oraB <| .imm ·),
   .imm8 (.addB <| .imm ·), .star, .star, .imm16 (.ldx <| .imm ·), .star]

/-- Row Dx of R93. -/
def opcodeRowD : List MapCell :=
  [.dir (.subB <| .mem <| .dir ·), .dir (.cmpB <| .mem <| .dir ·),
   .dir (.sbcB <| .mem <| .dir ·), .star, .dir (.andB <| .mem <| .dir ·),
   .dir (.bitB <| .mem <| .dir ·), .dir (.ldaB <| .mem <| .dir ·), .dir (.staB <| .dir ·),
   .dir (.eorB <| .mem <| .dir ·), .dir (.adcB <| .mem <| .dir ·),
   .dir (.oraB <| .mem <| .dir ·), .dir (.addB <| .mem <| .dir ·), .star, .star,
   .dir (.ldx <| .mem <| .dir ·), .dir (.stx <| .dir ·)]

/-- Row Ex of R93. -/
def opcodeRowE : List MapCell :=
  [.ind (.subB <| .mem <| .ind ·), .ind (.cmpB <| .mem <| .ind ·),
   .ind (.sbcB <| .mem <| .ind ·), .star, .ind (.andB <| .mem <| .ind ·),
   .ind (.bitB <| .mem <| .ind ·), .ind (.ldaB <| .mem <| .ind ·), .ind (.staB <| .ind ·),
   .ind (.eorB <| .mem <| .ind ·), .ind (.adcB <| .mem <| .ind ·),
   .ind (.oraB <| .mem <| .ind ·), .ind (.addB <| .mem <| .ind ·), .star, .star,
   .ind (.ldx <| .mem <| .ind ·), .ind (.stx <| .ind ·)]

/-- Row Fx of R93. -/
def opcodeRowF : List MapCell :=
  [.ext (.subB <| .mem <| .ext ·), .ext (.cmpB <| .mem <| .ext ·),
   .ext (.sbcB <| .mem <| .ext ·), .star, .ext (.andB <| .mem <| .ext ·),
   .ext (.bitB <| .mem <| .ext ·), .ext (.ldaB <| .mem <| .ext ·), .ext (.staB <| .ext ·),
   .ext (.eorB <| .mem <| .ext ·), .ext (.adcB <| .mem <| .ext ·),
   .ext (.oraB <| .mem <| .ext ·), .ext (.addB <| .mem <| .ext ·), .star, .star,
   .ext (.ldx <| .mem <| .ext ·), .ext (.stx <| .ext ·)]

/-- The sixteen rows of R93 by the high digit of the opcode. -/
def opcodeRow : Nat → List MapCell
  | 0 => opcodeRow0
  | 1 => opcodeRow1
  | 2 => opcodeRow2
  | 3 => opcodeRow3
  | 4 => opcodeRow4
  | 5 => opcodeRow5
  | 6 => opcodeRow6
  | 7 => opcodeRow7
  | 8 => opcodeRow8
  | 9 => opcodeRow9
  | 10 => opcodeRowA
  | 11 => opcodeRowB
  | 12 => opcodeRowC
  | 13 => opcodeRowD
  | 14 => opcodeRowE
  | 15 => opcodeRowF
  | _ => []

/-- The cell of an opcode in R93: row = high digit, column = low digit. -/
def opcodeCell (op : Byte) : MapCell := (opcodeRow (op.toNat / 16)).getD (op.toNat % 16) .star

/-- How many operand bytes follow the opcode (R81, R95). -/
def MapCell.operandBytes : MapCell → Nat
  | .star | .inh _ | .acc _ => 0
  | .imm8 _ | .dir _ | .ind _ | .rel _ => 1
  | .imm16 _ | .ext _ => 2

/-- The instruction of a cell with its operand bytes; a 16-bit field has its high byte first
(R81, R95). An unassigned opcode stays one, under its own name (R92). -/
def MapCell.build (op b1 b2 : Byte) : MapCell → Instr
  | .star => .unassigned op
  | .inh i | .acc i => i
  | .imm8 f | .dir f | .ind f | .rel f => f b1
  | .imm16 f | .ext f => f (joinBytes b1 b2)

/-- The instruction at three bytes of memory; bytes after its last operand byte do not matter. -/
def decodeBytes (op b1 b2 : Byte) : Instr := (opcodeCell op).build op b1 b2

/-- Why a byte sequence holds no instruction. -/
inductive DecodeError where
  /-- There is no opcode byte. -/
  | noOpcode
  /-- The opcode's operand bytes are not all there. -/
  | missingOperand (opcode : Byte)
deriving DecidableEq, Repr

/-- Decode the first instruction of a byte sequence; total, rejecting by name (R80). -/
def decode : List Byte → Except DecodeError (Instr × List Byte)
  | [] => .error .noOpcode
  | op :: rest =>
    if rest.length < (opcodeCell op).operandBytes then .error (.missingOperand op)
    else .ok (decodeBytes op (rest.getD 0 0) (rest.getD 1 0),
      rest.drop (opcodeCell op).operandBytes)

/-- The instruction in the table word `w` of `nbits` bits: bit 0 is the least significant bit of the
first byte, and every bit above `nbits` is 0. -/
def decodeTableWord (nbits w : Nat) : Option Instr :=
  let v := w % 2 ^ nbits
  match decode [BitVec.ofNat 8 v, BitVec.ofNat 8 (v / 256), BitVec.ofNat 8 (v / 65536)] with
  | .ok (i, _) => some i
  | .error _ => none

/-- The bytes of a memory mode, given the opcodes of DIR, IND and EXT (R85, R86, R87). -/
def Mem.bytes (dir ind ext : Byte) : Mem → List Byte
  | .dir a => [dir, a]
  | .ind o => [ind, o]
  | .ext a => [ext, hi8 a, lo8 a]

/-- The bytes of an 8-bit source, given the opcodes of IMM, DIR, IND and EXT (R88). -/
def Src8.bytes (imm dir ind ext : Byte) : Src8 → List Byte
  | .imm v => [imm, v]
  | .mem m => m.bytes dir ind ext

/-- The bytes of a 16-bit source, given the opcodes of IMM, DIR, IND and EXT (R88). -/
def Src16.bytes (imm dir ind ext : Byte) : Src16 → List Byte
  | .imm v => [imm, hi8 v, lo8 v]
  | .mem m => m.bytes dir ind ext

/-- The bytes of an IND or EXT operand, given the two opcodes (R86, R87). -/
def IndExt.bytes (ind ext : Byte) : IndExt → List Byte
  | .ind o => [ind, o]
  | .ext a => [ext, hi8 a, lo8 a]

/-- The bytes of an instruction, from the opcode lines of the instruction rules R110 to R257. -/
def encode : Instr → List Byte
  | .nop => [0x01]
  | .tap => [0x06]
  | .tpa => [0x07]
  | .inx => [0x08]
  | .dex => [0x09]
  | .clv => [0x0A]
  | .sev => [0x0B]
  | .clc => [0x0C]
  | .sec => [0x0D]
  | .cli => [0x0E]
  | .sei => [0x0F]
  | .sba => [0x10]
  | .cba => [0x11]
  | .tab => [0x16]
  | .tba => [0x17]
  | .daa => [0x19]
  | .aba => [0x1B]
  | .bra rel => [0x20, rel]
  | .bhi rel => [0x22, rel]
  | .bls rel => [0x23, rel]
  | .bcc rel => [0x24, rel]
  | .bcs rel => [0x25, rel]
  | .bne rel => [0x26, rel]
  | .beq rel => [0x27, rel]
  | .bvc rel => [0x28, rel]
  | .bvs rel => [0x29, rel]
  | .bpl rel => [0x2A, rel]
  | .bmi rel => [0x2B, rel]
  | .bge rel => [0x2C, rel]
  | .blt rel => [0x2D, rel]
  | .bgt rel => [0x2E, rel]
  | .ble rel => [0x2F, rel]
  | .tsx => [0x30]
  | .ins => [0x31]
  | .pulA => [0x32]
  | .pulB => [0x33]
  | .des => [0x34]
  | .txs => [0x35]
  | .pshA => [0x36]
  | .pshB => [0x37]
  | .rts => [0x39]
  | .rti => [0x3B]
  | .wai => [0x3E]
  | .swi => [0x3F]
  | .negA => [0x40]
  | .comA => [0x43]
  | .lsrA => [0x44]
  | .rorA => [0x46]
  | .asrA => [0x47]
  | .aslA => [0x48]
  | .rolA => [0x49]
  | .decA => [0x4A]
  | .incA => [0x4C]
  | .tstA => [0x4D]
  | .clrA => [0x4F]
  | .negB => [0x50]
  | .comB => [0x53]
  | .lsrB => [0x54]
  | .rorB => [0x56]
  | .asrB => [0x57]
  | .aslB => [0x58]
  | .rolB => [0x59]
  | .decB => [0x5A]
  | .incB => [0x5C]
  | .tstB => [0x5D]
  | .clrB => [0x5F]
  | .neg m => m.bytes 0x60 0x70
  | .com m => m.bytes 0x63 0x73
  | .lsr m => m.bytes 0x64 0x74
  | .ror m => m.bytes 0x66 0x76
  | .asr m => m.bytes 0x67 0x77
  | .asl m => m.bytes 0x68 0x78
  | .rol m => m.bytes 0x69 0x79
  | .dec m => m.bytes 0x6A 0x7A
  | .inc m => m.bytes 0x6C 0x7C
  | .tst m => m.bytes 0x6D 0x7D
  | .jmp m => m.bytes 0x6E 0x7E
  | .clr m => m.bytes 0x6F 0x7F
  | .subA m => m.bytes 0x80 0x90 0xA0 0xB0
  | .cmpA m => m.bytes 0x81 0x91 0xA1 0xB1
  | .sbcA m => m.bytes 0x82 0x92 0xA2 0xB2
  | .andA m => m.bytes 0x84 0x94 0xA4 0xB4
  | .bitA m => m.bytes 0x85 0x95 0xA5 0xB5
  | .ldaA m => m.bytes 0x86 0x96 0xA6 0xB6
  | .eorA m => m.bytes 0x88 0x98 0xA8 0xB8
  | .adcA m => m.bytes 0x89 0x99 0xA9 0xB9
  | .oraA m => m.bytes 0x8A 0x9A 0xAA 0xBA
  | .addA m => m.bytes 0x8B 0x9B 0xAB 0xBB
  | .cpx m => m.bytes 0x8C 0x9C 0xAC 0xBC
  | .bsr rel => [0x8D, rel]
  | .lds m => m.bytes 0x8E 0x9E 0xAE 0xBE
  | .staA m => m.bytes 0x97 0xA7 0xB7
  | .sts m => m.bytes 0x9F 0xAF 0xBF
  | .jsr m => m.bytes 0xAD 0xBD
  | .subB m => m.bytes 0xC0 0xD0 0xE0 0xF0
  | .cmpB m => m.bytes 0xC1 0xD1 0xE1 0xF1
  | .sbcB m => m.bytes 0xC2 0xD2 0xE2 0xF2
  | .andB m => m.bytes 0xC4 0xD4 0xE4 0xF4
  | .bitB m => m.bytes 0xC5 0xD5 0xE5 0xF5
  | .ldaB m => m.bytes 0xC6 0xD6 0xE6 0xF6
  | .eorB m => m.bytes 0xC8 0xD8 0xE8 0xF8
  | .adcB m => m.bytes 0xC9 0xD9 0xE9 0xF9
  | .oraB m => m.bytes 0xCA 0xDA 0xEA 0xFA
  | .addB m => m.bytes 0xCB 0xDB 0xEB 0xFB
  | .ldx m => m.bytes 0xCE 0xDE 0xEE 0xFE
  | .staB m => m.bytes 0xD7 0xE7 0xF7
  | .stx m => m.bytes 0xDF 0xEF 0xFF
  | .unassigned op => [op]

/-- The length of an instruction in bytes (R81); an unassigned opcode counts its one byte. -/
def Instr.length (i : Instr) : Nat := (encode i).length

end Sys2Proof
end

