-- ==== Sys2Proof/Machine/State.lean ====
section
/-! DEFINITION. The state of the MC6800 as plain data, why a step can stop, and the state after
reset. Every field is listed with its rule in INVENTORY.md. -/

namespace Sys2Proof.Machine

/-- The two accumulators (R10, R11). -/
inductive Acc where
  | a
  | b
deriving DecidableEq, Repr

/-- The six flags of the condition code register; its bits 7 and 6 are no state (R16, R17). -/
structure Ccr where
  /-- Half carry, bit 5 (R18). -/
  h : Bool
  /-- Interrupt mask, bit 4 (R19). -/
  i : Bool
  /-- Negative, bit 3 (R20). -/
  n : Bool
  /-- Zero, bit 2 (R21). -/
  z : Bool
  /-- Overflow, bit 1 (R22). -/
  v : Bool
  /-- Carry or borrow, bit 0 (R23). -/
  c : Bool
deriving DecidableEq, Repr

/-- The 65,536 bytes of memory (R40): the listed (address, byte) pairs, every other byte being
`unlistedByte` of Machine/Bus.lean (log 2). `Memory.wf` there is its canonical form. -/
structure Memory where
  cells : List Host.Cell
deriving DecidableEq, Repr

/-- The run state of R29. -/
inductive RunState where
  | running
  | waiting
  | halted
  | inReset
deriving DecidableEq, Repr

/-- The level of an input or output line (R33). -/
inductive Level where
  | low
  | high
deriving DecidableEq, Repr

/-- The input lines that the environment drives and that a boundary looks at (R33). RESET, HALT, IRQ
and NMI are active low. DBE and the releases of the bus inside a step are in `CycleInput`. -/
structure Lines where
  reset : Level
  halt : Level
  irq : Level
  nmi : Level
  tsc : Level
deriving DecidableEq, Repr

/-- All lines inactive: the bare MPU of R293. -/
def Lines.idle : Lines := { reset := .high, halt := .high, irq := .high, nmi := .high, tsc := .low }

/-- What the platform has at an address (R7, R44, R53). -/
inductive Kind where
  /-- Plain read/write memory. -/
  | ram
  /-- Memory that no write changes. -/
  | rom
  /-- A device: the environment answers its reads and takes its writes. -/
  | device
  /-- Nothing answers. -/
  | nothing
deriving DecidableEq, Repr

/-- The addresses from `first` to `last` and what is there. -/
structure Region where
  first : Word
  last : Word
  kind : Kind
deriving DecidableEq, Repr

/-- What the environment does in one MPU cycle (R8, R73, R74, log 24). -/
structure CycleInput where
  /-- TSC was high before this cycle, with the clocks stopped, and other masters wrote these bytes. -/
  others : List (Word × Byte)
  /-- DBE is held low in this cycle, and this byte is on the data bus instead of the MPU's (R74). -/
  dbe : Option Byte
  /-- The byte that a device answers when this cycle reads it. -/
  answer : Option Byte
deriving DecidableEq, Repr

/-- A cycle in which nobody interferes. -/
def CycleInput.quiet : CycleInput := { others := [], dbe := none, answer := none }

/-- What the environment does at one instruction boundary, since the boundary before it, and in the
cycles of the step that starts here (R293, log 24). -/
structure Sample where
  /-- The line levels at this boundary. -/
  lines : Lines
  /-- NMI fell, and rose again if need be, since the last boundary: an edge no level shows (R27). -/
  nmiPulse : Bool
  /-- Writes by other bus masters since the last boundary; they land only where the MPU had released
  the bus (R72, R73). -/
  dma : List (Word × Byte)
  /-- The cycles of the step that starts here, the first one first; later cycles are quiet. -/
  cycles : List CycleInput
  /-- RESET falls after this many bus cycles of the step that starts here (R289, log 25). -/
  resetAfter : Option Nat
deriving DecidableEq, Repr

/-- One MPU cycle on the bus (R43, R44, R45). -/
structure BusCycle where
  /-- VMA: the cycle is a real access. -/
  vma : Bool
  /-- What the address bus holds. -/
  addr : Word
  /-- R/W is low. -/
  write : Bool
  /-- The byte on the data bus; `none` where the tables call it irrelevant (log 28). -/
  data : Option Byte
  /-- DBE is held low, so that the byte written is not the MPU's (R74). -/
  dbeLow : Bool
deriving DecidableEq, Repr

/-- What happens on the bus, in the one order that every master sees (R70). -/
inductive BusEvent where
  /-- A cycle of the MPU. -/
  | cycle (c : BusCycle)
  /-- A write by another master, between two cycles of the MPU (R73). -/
  | other (addr : Word) (v : Byte)
deriving DecidableEq, Repr

/-- Memory, and all that the bus has to do with it. -/
structure Bus where
  /-- Memory (R26, R40). -/
  mem : Memory
  /-- What is at each address; an address in no region is RAM (R7, R53, log 31). -/
  platform : List Region
  /-- The model's own: what the environment does in the cycles to come (log 24). -/
  inputs : List CycleInput
  /-- The model's own: what happened on the bus in the latest step (log 28). -/
  record : List BusEvent
  /-- The model's own: how many reads the bus has made, which numbers its free values (log 5). -/
  reads : Nat
deriving DecidableEq, Repr

/-- The whole machine. -/
structure State where
  /-- Accumulator A (R11). -/
  a : Byte
  /-- Accumulator B (R11). -/
  b : Byte
  /-- Index register (R12). -/
  x : Word
  /-- Stack pointer: the next free location (R14). -/
  sp : Word
  /-- Program counter: the address of the next byte to fetch (R13). -/
  pc : Word
  /-- Condition code register (R16). -/
  ccr : Ccr
  /-- Run state (R29). -/
  run : RunState
  /-- NMI request latch (R27). -/
  nmiPending : Bool
  /-- The ITMP delay: IRQ is not recognised at the next boundary (R28). -/
  irqInhibit : Bool
  /-- An IRQ was seen while HALT was low (R30). -/
  irqLatchedInHalt : Bool
  /-- Line levels at the last boundary (R33). -/
  lines : Lines
  /-- The model's own: the samples still to come; with none left the lines stay as they are (log 24). -/
  env : List Sample
  /-- The model's own: how many free values have been taken (log 5). -/
  draws : Nat
  /-- Memory, the platform and the bus. -/
  bus : Bus
deriving DecidableEq, Repr

/-- Faults. The MPU has none: no instruction and no access can fault (R270, R44), so this type has no
constructor and nobody raises one (safe). -/
inductive Fault where
deriving DecidableEq, Repr

/-- Why the model gives no next state. -/
inductive Refusal where
  /-- Raised by an arm of `exec` whose instruction has no meaning yet (safe: the run stops). -/
  | notModelled (mnemonic : String)
  /-- Raised by `execUnassigned` for an opcode of R92, to which the spec gives no effect (safe: the
  run stops, D1, log 9). -/
  | unassignedOpcode (opcode : Byte)
deriving DecidableEq, Repr

/-- The outcome of a step or of a meaning. -/
abbrev Result := Host.Outcome State Fault Refusal

/-- The machine right after a reset sequence (R34, R321). I is 1, the run state is Running and the
latches are clear as R34 says. PC is what the vector bytes FFFE and FFFF of this memory hold, and they
are unlisted (log 2, log 3). A, B, X, SP, H, N, Z, V and C are values the model names, since the spec
gives none (DESIGN CHOICE, unsafe, log 1). The lines are idle (R293); the platform is the spec's
default, 64K of RAM (D2, log 31). -/
def State.reset : State where
  a := 0x00
  b := 0x00
  x := 0x0000
  sp := 0x0000
  pc := 0x0000
  ccr := { h := false, i := true, n := false, z := false, v := false, c := false }
  run := .running
  nmiPending := false
  irqInhibit := false
  irqLatchedInHalt := false
  lines := Lines.idle
  env := []
  draws := 0
  bus := { mem := { cells := [] }, platform := [], inputs := [], record := [], reads := 0 }

end Sys2Proof.Machine
end

