-- ==== Sys2Proof/Machine/Bus.lean ====
section
/-! DEFINITION. Memory, the platform, and the bus: what one cycle does. Every access of the machine is
one of the three cycles of this file (R43 to R45). -/

namespace Sys2Proof.Machine

/-! ## Memory -/

/-- What a byte that nothing has written reads as (DESIGN CHOICE, unsafe, log 2). -/
def unlistedByte : Byte := 0x00

/-- The byte at an address of a cell list. -/
def readCells : List Host.Cell → Nat → Byte
  | [], _ => unlistedByte
  | (k, w) :: rest, a => if k = a then w else readCells rest a

/-- The cell list without an address. -/
def dropCell : List Host.Cell → Nat → List Host.Cell
  | [], _ => []
  | (k, w) :: rest, a => if k = a then dropCell rest a else (k, w) :: dropCell rest a

/-- The cell list with a byte at an address, in its place of the rising order. -/
def putCell : List Host.Cell → Nat → Byte → List Host.Cell
  | [], a, v => [(a, v)]
  | (k, w) :: rest, a, v =>
    if a < k then (a, v) :: (k, w) :: rest
    else if k = a then (a, v) :: rest
    else (k, w) :: putCell rest a v

/-- The byte at an address. -/
def Memory.read (m : Memory) (addr : Word) : Byte := readCells m.cells addr.toNat

/-- Put a byte at an address; the byte an unlisted address reads as is not listed. -/
def Memory.write (m : Memory) (addr : Word) (v : Byte) : Memory :=
  if v = unlistedByte then { cells := dropCell m.cells addr.toNat }
  else { cells := putCell m.cells addr.toNat v }

/-- The 16-bit value at an address: the high byte there, the low byte at the next address modulo
2^16 (R46, R48). -/
def Memory.read16 (m : Memory) (addr : Word) : Word := joinBytes (m.read addr) (m.read (addr + 1))

/-- Cells with rising addresses from `lo`, inside the space, none equal to an unlisted byte. -/
def risingFrom : Nat → List Host.Cell → Bool
  | _, [] => true
  | lo, (k, v) :: rest =>
    decide (lo ≤ k) && decide (k < 65536) && decide (v ≠ unlistedByte) && risingFrom (k + 1) rest

/-- The canonical form of memory. -/
def Memory.wf (m : Memory) : Bool := risingFrom 0 m.cells

/-! ## The platform (R7, R44, R53) -/

/-- The address is one of the region's. -/
def Region.contains (r : Region) (addr : Word) : Bool :=
  decide (r.first.toNat ≤ addr.toNat) && decide (addr.toNat ≤ r.last.toNat)

/-- What is at an address: the first region that has it, RAM where none has (D2, log 31). -/
def kindAt : List Region → Word → Kind
  | [], _ => .ram
  | r :: rest, addr => if r.contains addr then r.kind else kindAt rest addr

/-- A write on the bus, by any master: it lands in RAM only (R44). ROM keeps its byte, a device takes
the byte, and nothing is changed where nothing is (log 31). -/
def Memory.store (m : Memory) (p : List Region) (addr : Word) (v : Byte) : Memory :=
  if kindAt p addr = .ram then m.write addr v else m

/-- Writes on the bus, in order. -/
def Memory.storeAll (m : Memory) (p : List Region) : List (Word × Byte) → Memory
  | [] => m
  | (addr, v) :: rest => (m.store p addr v).storeAll p rest

/-! ## The record of the bus (R70) -/

/-- The MPU's own cycles. -/
def mpuCycles : List BusEvent → List BusCycle
  | [] => []
  | .cycle c :: rest => c :: mpuCycles rest
  | .other _ _ :: rest => mpuCycles rest

/-- What one event does to memory: a write lands, everything else does nothing (R44, R45). -/
def BusEvent.replay (p : List Region) (m : Memory) : BusEvent → Memory
  | .other addr v => m.store p addr v
  | .cycle c =>
    match c.vma, c.write, c.data with
    | true, true, some v => m.store p c.addr v
    | _, _, _ => m

/-- What events do to memory, in their order (R69, R70). -/
def replay (p : List Region) (m : Memory) : List BusEvent → Memory
  | [] => m
  | e :: rest => replay p (e.replay p m) rest

/-- The events up to and with so many cycles of the MPU. -/
def takeCycles : Nat → List BusEvent → List BusEvent
  | 0, _ => []
  | _ + 1, [] => []
  | k + 1, .other addr v :: rest => .other addr v :: takeCycles (k + 1) rest
  | k + 1, .cycle c :: rest => .cycle c :: takeCycles k rest

/-! ## One cycle -/

namespace Bus

/-- What the environment does in this cycle. -/
def input (b : Bus) : CycleInput := b.inputs.headD CycleInput.quiet

/-- What comes before the cycle: TSC may have given the bus to other masters, whose writes land now
(R73, R292). -/
def withOthers (b : Bus) : Bus :=
  { b with
    mem := b.mem.storeAll b.platform b.input.others
    inputs := b.inputs.tail
    record := b.record ++ b.input.others.map (fun w => .other w.1 w.2) }

/-- The byte that a read of an address gets in this cycle (R44, D2). -/
def answer (b : Bus) (addr : Word) : Byte :=
  match kindAt b.platform addr with
  | .ram | .rom => b.withOthers.mem.read addr
  | .device => b.input.answer.getD (Config.openBus b.reads)
  | .nothing => Config.openBus b.reads

/-- Record one cycle. -/
def log (b : Bus) (c : BusCycle) : Bus := { b with record := b.record ++ [.cycle c] }

/-- A read cycle with VMA = 1, `MemRead(addr,1)` (R44); its byte is `b.answer addr`. -/
def read (b : Bus) (addr : Word) : Bus :=
  { b.withOthers.log
    { vma := true, addr := addr, write := false, data := some (b.answer addr)
      dbeLow := b.input.dbe.isSome } with reads := b.reads + 1 }

/-- A write cycle with VMA = 1, `MemWrite(addr,1,v)` (R44); with DBE low the byte is not the MPU's
(R74). -/
def write (b : Bus) (addr : Word) (v : Byte) : Bus :=
  let w := b.input.dbe.getD v
  { b.withOthers.log
    { vma := true, addr := addr, write := true, data := some w, dbeLow := b.input.dbe.isSome } with
    mem := b.withOthers.mem.store b.platform addr w }

/-- A cycle with VMA = 0, which is no access (R45). DBE held low only marks it: the spec does not say what
the data bus holds then, and the data stays as given (the model's choice, log 27). -/
def internal (b : Bus) (addr : Word) (write : Bool) (data : Option Byte) : Bus :=
  b.withOthers.log
    { vma := false, addr := addr, write := write, data := data, dbeLow := b.input.dbe.isSome }

end Bus

end Sys2Proof.Machine
end

