-- ==== Sys2Proof/Machine/Ops.lean ====
section
/-! DEFINITION. The named operations over registers and memory, and the operations shared by every
interrupt: stacking, entry, return, and the reset sequence. A read is two operations on the same
state: `readData` is the byte, `readCycle` is the state after the cycle. -/

namespace Sys2Proof.Machine

/-! ## The condition code register as a byte -/

/-- The byte `1:1:H:I:N:Z:V:C` (R16, R17). -/
def Ccr.toByte (f : Ccr) : Byte :=
  0xC0 ||| (BitVec.ofBool f.h).zeroExtend 8 <<< 5 ||| (BitVec.ofBool f.i).zeroExtend 8 <<< 4
    ||| (BitVec.ofBool f.n).zeroExtend 8 <<< 3 ||| (BitVec.ofBool f.z).zeroExtend 8 <<< 2
    ||| (BitVec.ofBool f.v).zeroExtend 8 <<< 1 ||| (BitVec.ofBool f.c).zeroExtend 8

/-- The flags of a byte loaded into the register: bits 5 to 0; bits 7 and 6 are dropped (R17). -/
def Ccr.ofByte (v : Byte) : Ccr :=
  { h := v.getLsbD 5, i := v.getLsbD 4, n := v.getLsbD 3, z := v.getLsbD 2, v := v.getLsbD 1,
    c := v.getLsbD 0 }

/-! ## One field at a time -/

namespace State

/-- Write accumulator A. -/
def setA (s : State) (v : Byte) : State := { s with a := v }

/-- Write accumulator B. -/
def setB (s : State) (v : Byte) : State := { s with b := v }

/-- Write the index register. -/
def setX (s : State) (v : Word) : State := { s with x := v }

/-- Write the stack pointer. -/
def setSp (s : State) (v : Word) : State := { s with sp := v }

/-- Write the program counter. -/
def setPc (s : State) (v : Word) : State := { s with pc := v }

/-- Write the condition code register. -/
def setCcr (s : State) (v : Ccr) : State := { s with ccr := v }

/-- Write the run state. -/
def setRun (s : State) (v : RunState) : State := { s with run := v }

/-- Write the NMI latch. -/
def setNmiPending (s : State) (v : Bool) : State := { s with nmiPending := v }

/-- Write the ITMP delay. -/
def setIrqInhibit (s : State) (v : Bool) : State := { s with irqInhibit := v }

/-- Write the IRQ latch of the halted state. -/
def setIrqLatchedInHalt (s : State) (v : Bool) : State := { s with irqLatchedInHalt := v }

/-- Write the line levels. -/
def setLines (s : State) (v : Lines) : State := { s with lines := v }

/-- Write the samples to come. -/
def setEnv (s : State) (v : List Sample) : State := { s with env := v }

/-- Write the count of free values. -/
def setDraws (s : State) (v : Nat) : State := { s with draws := v }

/-- Write the bus. -/
def setBus (s : State) (v : Bus) : State := { s with bus := v }

/-- Memory. -/
abbrev mem (s : State) : Memory := s.bus.mem

/-- The accumulator an opcode selects, `ACCX` (R84). -/
def acc (r : Acc) (s : State) : Byte :=
  match r with
  | .a => s.a
  | .b => s.b

/-- Write the accumulator an opcode selects (R84). -/
def setAcc (r : Acc) (v : Byte) (s : State) : State :=
  match r with
  | .a => s.setA v
  | .b => s.setB v

/-! ## Bus cycles -/

/-- The byte that a read of an address gets in this cycle (R44). -/
def readData (s : State) (addr : Word) : Byte := s.bus.answer addr

/-- A read cycle with VMA = 1, `MemRead(addr,1)` (R44). -/
def readCycle (s : State) (addr : Word) : State := s.setBus (s.bus.read addr)

/-- A write cycle with VMA = 1, `MemWrite(addr,1,v)` (R44). -/
def writeByte (s : State) (addr : Word) (v : Byte) : State := s.setBus (s.bus.write addr v)

/-- A cycle with VMA = 0: no access, R/W high, the data irrelevant (R45). -/
def idle (s : State) (addr : Word) : State := s.setBus (s.bus.internal addr false none)

/-- The value of `MemRead(addr,2)`: the high byte first, at the lower address (R46, R48). -/
def readWord (s : State) (addr : Word) : Word :=
  joinBytes (s.readData addr) ((s.readCycle addr).readData (addr + 1))

/-- The two cycles of `MemRead(addr,2)`. -/
def readWordCycles (s : State) (addr : Word) : State := (s.readCycle addr).readCycle (addr + 1)

/-- `MemWrite(addr,2,v)`: the high byte first, at the lower address (R46, R48). -/
def writeWord (s : State) (addr : Word) (v : Word) : State :=
  (s.writeByte addr (hi8 v)).writeByte (addr + 1) (lo8 v)

/-- `Fetch8()`: a read at PC, then PC + 1 (R82). -/
def fetch8 (s : State) : State := (s.readCycle s.pc).setPc (s.pc + 1)

/-- `DummyRead()`: the second cycle of a one-byte instruction reads the byte after it (R51, R65,
R103). -/
def dummyRead (s : State) : State := s.readCycle s.pc

/-! ## The stack -/

/-- `Push8(v)`: store at SP, then SP - 1 (R14). -/
def push8 (s : State) (v : Byte) : State := (s.writeByte s.sp v).setSp (s.sp - 1)

/-- Push a return address, low byte first (R46, R225). -/
def pushWord (s : State) (v : Word) : State := (s.push8 (lo8 v)).push8 (hi8 v)

/-- The byte of `Pull8()`: SP + 1, then the byte at SP (R14). -/
def pullData (s : State) : Byte := s.readData (s.sp + 1)

/-- `Pull8()`: SP + 1, then a read at SP (R14). -/
def pull8 (s : State) : State := (s.readCycle (s.sp + 1)).setSp (s.sp + 1)

/-- The value of two pulls, the high byte first (R46). -/
def pullWordData (s : State) : Word := joinBytes s.pullData s.pull8.pullData

/-- Two pulls. -/
def pullWord (s : State) : State := s.pull8.pull8

/-! ## The interrupt mask -/

/-- Load the flags through ITMP: a change of I from 1 to 0 delays IRQ by one boundary, setting I does
not (R28, R251, R256; log 16). -/
def loadCcrDelayed (s : State) (f : Ccr) : State :=
  (s.setCcr f).setIrqInhibit (s.irqInhibit || (s.ccr.i && !f.i))

/-- I <- 1. -/
def maskInterrupts (s : State) : State := s.setCcr { s.ccr with i := true }

end State

/-! ## Interrupt sequences -/

/-- The four vectors (R50, R272). -/
inductive InterruptVector where
  | reset
  | nmi
  | swi
  | irq
deriving DecidableEq, Repr

/-- The address of the high byte of a vector; the low byte is at the next address (R50). -/
def InterruptVector.addr : InterruptVector → Word
  | .reset => 0xFFFE
  | .nmi => 0xFFFC
  | .swi => 0xFFFA
  | .irq => 0xFFF8

namespace State

/-- `StackRegisters()`: PC, X, A, B and the condition codes, seven bytes, SP down by seven (R276). The
PC stacked is the return address of R277. -/
def stackRegisters (s : State) : State :=
  ((((s.pushWord s.pc).pushWord s.x).push8 s.a).push8 s.b).push8 s.ccr.toByte

/-- PC <- the 16-bit value at a vector, by two read cycles in ascending order (R50). -/
def loadVector (v : InterruptVector) (s : State) : State :=
  (s.readWordCycles v.addr).setPc (s.readWord v.addr)

/-- Enter a handler: I <- 1 after stacking, then PC from the vector (R278, R279, R280, R287). -/
def enterHandler (v : InterruptVector) (s : State) : State := s.maskInterrupts.loadVector v

/-- The cycle between stacking and vector that the sources give for SWI only (R66, R68, log 28). -/
def vectorGap (v : InterruptVector) (s : State) : State :=
  match v with
  | .swi => s.idle s.sp
  | .reset | .nmi | .irq => s

/-- Taking an interrupt: stack the registers, set I, load PC from the vector (R276 to R280). -/
def takeInterrupt (v : InterruptVector) (s : State) : State :=
  (s.stackRegisters.vectorGap v).enterHandler v

/-- Returning from one: pull the condition codes, B, A, X and PC (R230, R284). Whether a cleared I
delays IRQ here is the open parameter of R281 (log 8). -/
def returnFromInterrupt (s : State) : State :=
  let s1 := s.idle s.sp
  let f := Ccr.ofByte s1.pullData
  let s2 := s1.pull8
  let s3 := s2.pull8
  let s4 := s3.pull8
  let s5 := s4.pullWord
  let t := ((s5.pullWord.setB s2.pullData).setA s3.pullData).setX s4.pullWordData
  ((t.setPc s5.pullWordData).setCcr f).setIrqInhibit
    (s.irqInhibit || (s.ccr.i && !f.i && Config.rtiIClearDelayed))

/-- A, B, X, SP and the flags but I are unspecified after a reset sequence in a run: each becomes a
free value (R34, R36, log 4). -/
def freeRegisters (s : State) : State :=
  { s with
    a := Config.freeByte s.draws
    b := Config.freeByte (s.draws + 1)
    x := Config.freeWord (s.draws + 2)
    sp := Config.freeWord (s.draws + 3)
    ccr :=
      { h := Config.freeBit (s.draws + 4), i := s.ccr.i, n := Config.freeBit (s.draws + 5),
        z := Config.freeBit (s.draws + 6), v := Config.freeBit (s.draws + 7),
        c := Config.freeBit (s.draws + 8) }
    draws := s.draws + 9 }

/-- `ResetSequence()`: I <- 1, PC from FFFE and FFFF, the latches cleared, Running (R321, log 32). -/
def resetSequence (s : State) : State :=
  let t := s.freeRegisters.enterHandler .reset
  { t with
    nmiPending := false
    irqInhibit := false
    irqLatchedInHalt := false
    run := .running }

end State

end Sys2Proof.Machine
end

