-- ==== Sys2Proof/Machine/Flags.lean ====
section
/-! DEFINITION. The flag computations. Each kernel takes its operands and the flags before the
instruction and gives the result with the flags after it; a flag it does not mention is kept (R24). -/

namespace Sys2Proof.Machine

/-! ## Arithmetic (file 40) -/

/-- `add8(a, m, cin)` (R121, log 36). -/
def add8 (a m : Byte) (cin : Bool) (f : Ccr) : Byte × Ccr :=
  let total := a.toNat + m.toNat + cin.toNat
  let r : Byte := BitVec.ofNat 8 total
  (r, { f with
    h := decide (15 < a.toNat % 16 + m.toNat % 16 + cin.toNat)
    n := r.msb
    z := decide (r = 0)
    v := (a.msb == m.msb) && (r.msb != a.msb)
    c := decide (255 < total) })

/-- `sub8(a, m, bin)`; C is the borrow (R122, log 36). -/
def sub8 (a m : Byte) (bin : Bool) (f : Ccr) : Byte × Ccr :=
  let d : Int := (a.toNat : Int) - m.toNat - bin.toNat
  let r : Byte := BitVec.ofInt 8 d
  (r, { f with
    n := r.msb
    z := decide (r = 0)
    v := (a.msb != m.msb) && (r.msb != a.msb)
    c := decide (d < 0) })

/-- NEG: 00 - M, with V when the result is 80 and C when it is not 00 (R118, log 11). -/
def neg8 (m : Byte) (f : Ccr) : Byte × Ccr :=
  let r : Byte := 0 - m
  (r, { f with n := r.msb, z := decide (r = 0), v := decide (r = 0x80), c := decide (r ≠ 0) })

/-- INC: V when the operand was 7F, C kept (R119). -/
def inc8 (m : Byte) (f : Ccr) : Byte × Ccr :=
  let r : Byte := m + 1
  (r, { f with n := r.msb, z := decide (r = 0), v := decide (m = 0x7F) })

/-- DEC: V when the operand was 80, C kept (R120). -/
def dec8 (m : Byte) (f : Ccr) : Byte × Ccr :=
  let r : Byte := m - 1
  (r, { f with n := r.msb, z := decide (r = 0), v := decide (m = 0x80) })

/-- The correction byte of DAA and its carry out (R128, log 10). -/
def daaCorrection (a : Byte) (f : Ccr) : Byte × Bool :=
  let lo := a.toNat % 16
  let hi := a.toNat / 16
  let low : Byte := if 9 < lo ∨ f.h = true then 0x06 else 0x00
  if 9 < hi ∨ f.c = true ∨ (9 ≤ hi ∧ 9 < lo) then (low + 0x60, true) else (low, f.c)

/-- DAA; V is the free bit it is given (R128, log 5, log 10). -/
def daa8 (a : Byte) (freeV : Bool) (f : Ccr) : Byte × Ccr :=
  let corr := daaCorrection a f
  let r : Byte := a + corr.1
  (r, { f with n := r.msb, z := decide (r = 0), v := freeV, c := corr.2 })

/-! ## Logic, loads, stores, transfers (files 41, 42) -/

/-- `setNZ8(r); V <- 0`: AND, BIT, EOR, ORA, LDA, STA, TAB, TBA (R140 to R143, R170 to R173). -/
def logicFlags (r : Byte) (f : Ccr) : Ccr := { f with n := r.msb, z := decide (r = 0), v := false }

/-- COM: the complement, C always set (R144). -/
def com8 (m : Byte) (f : Ccr) : Byte × Ccr :=
  let r : Byte := ~~~m
  (r, { logicFlags r f with c := true })

/-- CLR: 00 whatever the operand (R145). -/
def clr8 (_m : Byte) (f : Ccr) : Byte × Ccr :=
  (0x00, { f with n := false, z := true, v := false, c := false })

/-- TST: flags of the operand, V and C reset (R146). -/
def tstFlags (m : Byte) (f : Ccr) : Ccr := { logicFlags m f with c := false }

/-! ## Shifts and rotates (file 41) -/

/-- A flag as the byte 00 or 01. -/
def flagByte (c : Bool) : Byte := (BitVec.ofBool c).zeroExtend 8

/-- Flags of a shift: C is the bit shifted out, V is N xor C after the shift (note 6, R147 to R151). -/
def shiftFlags (r : Byte) (out : Bool) (f : Ccr) : Ccr :=
  { f with n := r.msb, z := decide (r = 0), v := r.msb ^^ out, c := out }

/-- ROL: through the carry, b7 to C, the old C to b0 (R147, log 12). -/
def rol8 (m : Byte) (f : Ccr) : Byte × Ccr :=
  let r : Byte := m <<< 1 ||| flagByte f.c
  (r, shiftFlags r (m.getLsbD 7) f)

/-- ROR: through the carry, b0 to C, the old C to b7 (R148, log 12). -/
def ror8 (m : Byte) (f : Ccr) : Byte × Ccr :=
  let r : Byte := m >>> 1 ||| flagByte f.c <<< 7
  (r, shiftFlags r (m.getLsbD 0) f)

/-- ASL: b7 to C, 0 to b0 (R149). -/
def asl8 (m : Byte) (f : Ccr) : Byte × Ccr :=
  let r : Byte := m <<< 1
  (r, shiftFlags r (m.getLsbD 7) f)

/-- ASR: b7 kept, b0 to C (R150, log 12). -/
def asr8 (m : Byte) (f : Ccr) : Byte × Ccr :=
  let r : Byte := m >>> 1 ||| (m &&& 0x80)
  (r, shiftFlags r (m.getLsbD 0) f)

/-- LSR: 0 to b7, b0 to C (R151). -/
def lsr8 (m : Byte) (f : Ccr) : Byte × Ccr :=
  let r : Byte := m >>> 1
  (r, shiftFlags r (m.getLsbD 0) f)

/-! ## 16-bit flags (file 43) -/

/-- LDX, LDS, STX, STS: N is bit 15, Z over 16 bits, V reset (R195 to R198, log 13). -/
def wordFlags (w : Word) (f : Ccr) : Ccr := { f with n := w.msb, z := decide (w = 0), v := false }

/-- INX, DEX: Z over 16 bits, nothing else (R191, R193, log 13). -/
def indexFlags (w : Word) (f : Ccr) : Ccr := { f with z := decide (w = 0) }

/-- The high-byte result of CPX; whether the low byte's borrow enters it is open (R190, log 7). -/
def cpxHigh (x m : Word) : Byte :=
  hi8 x - hi8 m - flagByte (decide ((lo8 x).toNat < (lo8 m).toNat) && Config.cpxMsBorrow)

/-- CPX: N and V from the high-byte subtraction, Z over 16 bits, H, I and C kept (R190, log 13). -/
def cpxFlags (x m : Word) (f : Ccr) : Ccr :=
  let rh := cpxHigh x m
  { f with
    n := rh.msb
    v := ((hi8 x).msb != (hi8 m).msb) && (rh.msb != (hi8 x).msb)
    z := decide (x = m) }

end Sys2Proof.Machine
end

