-- ==== Sys2Proof/Machine/Operands.lean ====
section
/-! DEFINITION. Operand forms: effective addresses, operand values, the bus cycles of each addressing
mode (R54 to R67), and the shapes that instructions of one kind share. A meaning starts where the
instruction's own bytes have been fetched (Machine/Fetch.lean): PC is after the instruction. -/

namespace Sys2Proof.Machine

/-- `zext_16` of a byte (R9). -/
def zext16 (v : Byte) : Word := v.zeroExtend 16

/-- `sext_16` of a byte: two's complement (R9, R89, log 15). -/
def sext16 (v : Byte) : Word := v.signExtend 16

/-- The low byte added, the carry into the high byte not yet (R57); seen on the bus only. -/
def sumWithoutCarry (x : Word) (off : Byte) : Word := joinBytes (hi8 x) (lo8 x + off)

end Sys2Proof.Machine

namespace Sys2Proof

open Machine

/-- `EffAddr()`: direct in 0000 to 00FF, X plus an unsigned offset modulo 2^16, or absolute (R85 to
R87, R100; log 14). -/
def Mem.ea (s : State) : Mem → Word
  | .dir a => zext16 a
  | .ind o => s.x + zext16 o
  | .ext a => a

/-- The cycles between the instruction bytes and the operand access: two with VMA = 0 in indexed mode
(R55, R57, R61). -/
def Mem.address (s : State) : Mem → State
  | .dir _ | .ext _ => s
  | .ind o => (s.idle s.x).idle (sumWithoutCarry s.x o)

/-- An indexed or extended operand as a memory operand. -/
def IndExt.toMem : IndExt → Mem
  | .ind o => .ind o
  | .ext a => .ext a

/-- The byte that the operand cycle of a memory mode reads. -/
def Mem.value (s : State) (m : Mem) : Byte := (m.address s).readData (m.ea s)

/-- The cycles of a memory mode with a read of one byte (R55, R57, R61). -/
def Mem.load (s : State) (m : Mem) : State := (m.address s).readCycle (m.ea s)

/-- `Operand8()` (R101). -/
def Src8.value (s : State) : Src8 → Byte
  | .imm v => v
  | .mem m => m.value s

/-- The bus cycles of `Operand8()` (R54, R55, R57, R61). -/
def Src8.access (s : State) : Src8 → State
  | .imm _ => s
  | .mem m => m.load s

/-- `Operand16()` (R102). -/
def Src16.value (s : State) : Src16 → Word
  | .imm v => v
  | .mem m => (m.address s).readWord (m.ea s)

/-- The bus cycles of `Operand16()`: the high byte first (R54, R55, R57, R61). -/
def Src16.access (s : State) : Src16 → State
  | .imm _ => s
  | .mem m => (m.address s).readWordCycles (m.ea s)

namespace Machine

/-! ## Shapes -/

/-- ACCX and an 8-bit source, the result to ACCX (R110, R111, R113, R114, R140, R142, R143, R170). -/
def binaryOp (r : Acc) (m : Src8) (f : Byte → Byte → Ccr → Byte × Ccr) (s : State) : State :=
  let res := f (s.acc r) (m.value s) s.ccr
  ((m.access s).setAcc r res.1).setCcr res.2

/-- ACCX and an 8-bit source, flags only (R116, R141). -/
def compareOp (r : Acc) (m : Src8) (f : Byte → Byte → Ccr → Ccr) (s : State) : State :=
  (m.access s).setCcr (f (s.acc r) (m.value s) s.ccr)

/-- The one-operand pattern on an accumulator (R104, R65). -/
def accOp (r : Acc) (f : Byte → Ccr → Byte × Ccr) (s : State) : State :=
  let res := f (s.acc r) s.ccr
  (s.dummyRead.setAcc r res.1).setCcr res.2

/-- The read-modify-write pattern on memory: read, a VMA = 0 cycle, write back (R52, R60, R64, R104). -/
def memOp (m : IndExt) (f : Byte → Ccr → Byte × Ccr) (s : State) : State :=
  let ea := m.toMem.ea s
  let res := f (m.toMem.value s) s.ccr
  (((m.toMem.load s).idle ea).writeByte ea res.1).setCcr res.2

/-- TST on an accumulator: flags only (R146). -/
def accTest (r : Acc) (s : State) : State := s.dummyRead.setCcr (tstFlags (s.acc r) s.ccr)

/-- TST on memory: the last cycle has R/W low but VMA = 0, so nothing is written (R60, R64, R146). -/
def memTest (m : IndExt) (s : State) : State :=
  let ea := m.toMem.ea s
  let t := (m.toMem.load s).idle ea
  (t.setBus (t.bus.internal ea true none)).setCcr (tstFlags (m.toMem.value s) s.ccr)

/-- Store an accumulator; the destination is not read (R56, R58, R63, R171). -/
def storeAcc (r : Acc) (m : Mem) (s : State) : State :=
  let ea := m.ea s
  (((m.address s).idle ea).writeByte ea (s.acc r)).setCcr (logicFlags (s.acc r) s.ccr)

/-- Store a 16-bit register, the high byte first (R56, R58, R63, R197, R198). -/
def storeWord (w : Word) (m : Mem) (s : State) : State :=
  let ea := m.ea s
  (((m.address s).idle ea).writeWord ea w).setCcr (wordFlags w s.ccr)

/-- Push an accumulator; the last cycle shows it with VMA = 0, which is no second write (R174, R65), and
shows it with DBE low too (the model's choice, log 27). -/
def pushAcc (r : Acc) (s : State) : State :=
  let t := s.dummyRead.push8 (s.acc r)
  t.setBus (t.bus.internal (s.sp - 1) false (some (s.acc r)))

/-- Pull an accumulator (R175, R65). -/
def pullAcc (r : Acc) (s : State) : State :=
  let t := s.dummyRead.idle s.sp
  t.pull8.setAcc r t.pullData

/-- A one-byte instruction that changes only flags (file 45). -/
def flagOp (f : Ccr → Ccr) (s : State) : State := s.dummyRead.setCcr (f s.ccr)

/-- INX, DEX, TSX: a new X, with two VMA = 0 cycles (R65). -/
def indexOp (old new : Word) (s : State) : State := ((s.dummyRead.idle old).idle new).setX new

/-- INS, DES, TXS: a new SP, with two VMA = 0 cycles (R65, R202). -/
def stackPointerOp (old new : Word) (s : State) : State :=
  ((s.dummyRead.idle old).idle new).setSp new

/-- The target of a relative branch: PC after the instruction plus the signed offset (R89). -/
def branchTarget (s : State) (rel : Byte) : Word := s.pc + sext16 rel

/-- A relative branch: the same cycles taken or not (R67, R210). -/
def branchIf (cond : Bool) (rel : Byte) (s : State) : State :=
  let t := (s.idle s.pc).idle (branchTarget s rel)
  if cond then t.setPc (branchTarget s rel) else t

end Machine

end Sys2Proof
end

