-- ==== Sys2Proof/Machine/Fetch.lean ====
section
/-! DEFINITION. Fetching an instruction: its bytes are read one by one at PC, in the first cycles of the
instruction (R80 to R82, R54 to R67). Every byte is read when it is used (R76), so another master or a
device may give a byte that no list of memory holds. -/

namespace Sys2Proof.Machine

/-- The instruction that the fetch cycles from here read, and the state after them: PC is after the
instruction. -/
def State.fetchInstr (s : State) : Instr × State :=
  let op := s.readData s.pc
  let s1 := s.fetch8
  let s2 := s1.fetch8
  match (opcodeCell op).operandBytes with
  | 0 => (decodeBytes op 0 0, s1)
  | 1 => (decodeBytes op (s1.readData s1.pc) 0, s2)
  | _ => (decodeBytes op (s1.readData s1.pc) (s2.readData s2.pc), s2.fetch8)

/-- Fetch and execute, the `Execute` of R300; `run` is the meaning of instructions. -/
def State.fetchAndRun (run : Instr → State → Result) (s : State) : Result :=
  run s.fetchInstr.1 s.fetchInstr.2

end Sys2Proof.Machine
end

