-- ==== Sys2Proof/Machine/Boundary.lean ====
section
/-! DEFINITION. What happens at an instruction boundary: the environment's sample is taken, the lines
are tested in the order of R282 and R300, and either an interrupt, reset, wait or halt step happens or
an instruction executes. -/

namespace Sys2Proof.Machine

namespace State

/-- The sample of this boundary: the first one still to come, or the lines as they are and nobody
interfering (R293, log 24). -/
def sample (s : State) : Sample :=
  s.env.headD { lines := s.lines, nmiPulse := false, dma := [], cycles := [], resetAfter := none }

/-- Another master may use the bus: the MPU is waiting or halted, or TSC is high (R72, R73). -/
def busReleased (s : State) : Bool :=
  decide (s.run = .waiting) || decide (s.run = .halted) || decide (s.lines.tsc = .high)

/-- Memory with the writes other masters made before this boundary (R72, R73). -/
def afterDma (s : State) : Memory :=
  if s.busReleased then s.mem.storeAll s.bus.platform s.sample.dma else s.mem

/-- A high-to-low transition of NMI since the last boundary (R27, R283). -/
def nmiEdge (s : State) : Bool :=
  s.sample.nmiPulse || (decide (s.lines.nmi = .high) && decide (s.sample.lines.nmi = .low))

/-- In R300 an NMI edge is latched after the two reset tests; a reset clears the latch anyway (log 18).
TSC does not keep an edge from being latched (log 39). -/
def nmiLatched (s : State) : Bool :=
  s.nmiPending ||
    (s.nmiEdge && decide (s.sample.lines.reset = .high) && decide (s.run ≠ .inReset))

/-- The state with the sample taken and the bus record empty. -/
def sampled (s : State) : State :=
  { s with
    lines := s.sample.lines
    env := s.env.tail
    nmiPending := s.nmiLatched
    bus := { s.bus with mem := s.afterDma, inputs := s.sample.cycles, record := [] } }

/-- IRQ is requested: the line is low, or it was seen low in the halted state (R30, R274). -/
def irqRequested (s : State) : Bool := decide (s.lines.irq = .low) || s.irqLatchedInHalt

end State

/-- What a boundary leads to. -/
inductive Action where
  /-- RESET is low (R320). -/
  | holdReset
  /-- TSC is high: the clocks are stopped (R292). -/
  | frozen
  /-- RESET has gone high (R321). -/
  | leaveReset
  /-- HALT is low (R290). -/
  | holdHalt
  /-- The wait state goes on (R287). -/
  | keepWaiting
  /-- The wait state ends; the registers are stacked already (R287). -/
  | wake (v : InterruptVector)
  /-- An interrupt sequence with stacking (R278, R279). -/
  | interrupt (v : InterruptVector)
  /-- The next instruction executes. -/
  | execute
deriving DecidableEq, Repr

namespace State

/-- The tests of R300 in their order, on the sampled state: RESET, HALT, NMI, IRQ, instruction (R282,
log 17, log 20, log 21). RESET overrides every other state (R289). R300 has no test of TSC; that it
stands after RESET and before all that needs a clock is the model's choice (log 39). -/
def action (s : State) : Action :=
  if s.lines.reset = .low then .holdReset
  else if s.lines.tsc = .high then .frozen
  else if s.run = .inReset then .leaveReset
  else if s.lines.halt = .low then .holdHalt
  else if s.run = .waiting then
    if s.nmiPending then .wake .nmi
    else if s.irqRequested && !s.ccr.i then .wake .irq
    else .keepWaiting
  else if s.nmiPending then .interrupt .nmi
  else if s.irqRequested && !s.ccr.i && !s.irqInhibit then .interrupt .irq
  else .execute

/-- An IRQ latched in the halted state is dropped where it is examined with I = 1 (R30, R287, R300). -/
def dropMaskedIrq (s : State) : State := s.setIrqLatchedInHalt (s.irqLatchedInHalt && !s.ccr.i)

/-- The request that an NMI or IRQ sequence answers is withdrawn (R278, R279, R287). -/
def acknowledge (v : InterruptVector) (s : State) : State :=
  match v with
  | .nmi => s.setNmiPending false
  | .irq => s.setIrqLatchedInHalt false
  | .swi | .reset => s

/-- IRQ is latched while HALT is low (R30, log 19). -/
def latchIrq (s : State) : State :=
  s.setIrqLatchedInHalt (s.irqLatchedInHalt || decide (s.lines.irq = .low))

/-- HALT low: a running MPU halts, a waiting one stays waiting; an IRQ is latched (R30, R290, log 19,
log 20). -/
def halt (s : State) : State :=
  (if s.run = .running then s.setRun .halted else s).latchIrq

/-- TSC high: nothing changes (R292), but that an MPU which HALT holds halted or waiting latches an IRQ
as it does without TSC (R30; the model's choice, log 39). -/
def freeze (s : State) : State :=
  if s.lines.halt = .low ∧ (s.run = .halted ∨ s.run = .waiting) then s.latchIrq else s

/-- The state in which the next instruction executes: Running, a masked latched IRQ dropped, the ITMP
delay over (R300). -/
def readyToExecute (s : State) : State := (s.dropMaskedIrq.setIrqInhibit false).setRun .running

/-- RESET falls after `k` bus cycles of a step that began in `s` and would have ended in `t`: only the
events up to the last of those cycles have happened (R289, R323, log 25). -/
def cutByReset (s : State) (k : Nat) (t : State) : State :=
  { t with
    bus := { t.bus with
      mem := replay s.bus.platform s.mem (takeCycles k t.bus.record)
      record := takeCycles k t.bus.record }
    run := .inReset
    lines := { t.lines with reset := .low } }

/-- What an action does to the sampled state; `run` is the meaning of instructions. -/
def perform (run : Instr → State → Result) (s : State) : Action → Result
  | .frozen => .next s.freeze
  | .holdReset => .next (s.setRun .inReset)
  | .leaveReset => .next s.resetSequence
  | .holdHalt => .next s.halt
  | .keepWaiting => .next s.dropMaskedIrq
  | .wake v => .next (((s.acknowledge v).enterHandler v).setRun .running)
  | .interrupt v =>
    .next ((((s.acknowledge v).takeInterrupt v).setIrqInhibit false).setRun .running)
  | .execute => s.readyToExecute.fetchAndRun run

/-- RESET falls after `k` bus cycles of the step with this result. A refused instruction has made no
cycle but those of its fetch: RESET in or before them comes first, and RESET after them finds the
refusal (the model's choice, log 25). RESET also falls in a step that TSC has stopped, which has no
cycles (the model's choice, log 39). -/
def cutStep (s : State) (k : Nat) : Result → Result
  | .next u => .next (s.cutByReset k u)
  | r =>
    let fetched := s.readyToExecute.fetchInstr.2
    if k ≤ (mpuCycles fetched.bus.record).length then .next (s.cutByReset k fetched) else r

/-- One boundary with what follows it (R300). -/
def atBoundary (run : Instr → State → Result) (s : State) : Result :=
  let t := s.sampled
  match s.sample.resetAfter with
  | none => t.perform run t.action
  | some k => t.cutStep k (t.perform run t.action)

/-- Reads of this address get the byte in memory: where the platform has a device or nothing there, it
gets ROM instead (log 38). -/
def makeReadable (s : State) (addr : Word) : State :=
  match kindAt s.bus.platform addr with
  | .ram | .rom => s
  | .device | .nothing =>
    s.setBus { s.bus with
      platform := { first := addr, last := addr, kind := .rom } :: s.bus.platform }

/-- A byte that the fetch at this address reads (log 38). -/
def placeByte (s : State) (addr : Word) (v : Nat) : State :=
  (s.setBus { s.bus with mem := s.mem.write addr (BitVec.ofNat 8 v) }).makeReadable addr

/-- Three bytes from an address on, the bytes of a table word (log 38). -/
def placeBytes (s : State) (addr : Word) (v : Nat) : State :=
  ((s.placeByte addr v).placeByte (addr + 1) (v / 256)).placeByte (addr + 2) (v / 65536)

/-- The state with nothing in the way of a fetch: Running, lines idle, no request (log 38). -/
def undisturbed (s : State) : State :=
  { s with
    run := .running
    lines := Lines.idle
    env := []
    nmiPending := false
    irqLatchedInHalt := false }

end State

end Sys2Proof.Machine
end

