-- ==== Sys2Proof/Machine/Arith.lean ====
section
/-! DEFINITION. Meanings of file 40: ADD ADC ABA SUB SBC SBA CMP CBA NEG INC DEC DAA.
One definition an instruction, over the shared operations. None can raise an exception (R270), so each gives a next state. -/

namespace Sys2Proof.Machine

/-- SBA, Subtract Accumulators (R115): A - B -> A. -/
def execSba (s : State) : Result := .next (accOp .a (fun a f => sub8 a s.b false f) s)

/-- CBA, Compare Accumulators (R117): A - B, flags only. -/
def execCba (s : State) : Result := .next (flagOp (fun f => (sub8 s.a s.b false f).2) s)

/-- DAA, Decimal Adjust A (R128): decimal adjust of A; V becomes a free bit (log 5). -/
def execDaa (s : State) : Result :=
  .next ((accOp .a (daa8 · (Config.freeBit s.draws)) s).setDraws (s.draws + 1))

/-- ABA, Add Accumulators (R112): A + B -> A. -/
def execAba (s : State) : Result := .next (accOp .a (fun a f => add8 a s.b false f) s)

/-- NEG A, Negate (R118): 00 - A -> A. -/
def execNegA (s : State) : Result := .next (accOp .a neg8 s)

/-- DEC A, Decrement (R120): A - 1 -> A. -/
def execDecA (s : State) : Result := .next (accOp .a dec8 s)

/-- INC A, Increment (R119): A + 1 -> A. -/
def execIncA (s : State) : Result := .next (accOp .a inc8 s)

/-- NEG B, Negate (R118): 00 - B -> B. -/
def execNegB (s : State) : Result := .next (accOp .b neg8 s)

/-- DEC B, Decrement (R120): B - 1 -> B. -/
def execDecB (s : State) : Result := .next (accOp .b dec8 s)

/-- INC B, Increment (R119): B + 1 -> B. -/
def execIncB (s : State) : Result := .next (accOp .b inc8 s)

/-- NEG, Negate (R118): 00 - M -> M. -/
def execNeg (m : IndExt) (s : State) : Result := .next (memOp m neg8 s)

/-- DEC, Decrement (R120): M - 1 -> M. -/
def execDec (m : IndExt) (s : State) : Result := .next (memOp m dec8 s)

/-- INC, Increment (R119): M + 1 -> M. -/
def execInc (m : IndExt) (s : State) : Result := .next (memOp m inc8 s)

/-- SUB A, Subtract (R113): A - M -> A. -/
def execSubA (m : Src8) (s : State) : Result :=
  .next (binaryOp .a m (fun a v f => sub8 a v false f) s)

/-- CMP A, Compare (R116): A - M, flags only. -/
def execCmpA (m : Src8) (s : State) : Result :=
  .next (compareOp .a m (fun a v f => (sub8 a v false f).2) s)

/-- SBC A, Subtract with Carry (R114): A - M - C -> A. -/
def execSbcA (m : Src8) (s : State) : Result :=
  .next (binaryOp .a m (fun a v f => sub8 a v f.c f) s)

/-- ADC A, Add with Carry (R111): A + M + C -> A. -/
def execAdcA (m : Src8) (s : State) : Result :=
  .next (binaryOp .a m (fun a v f => add8 a v f.c f) s)

/-- ADD A, Add (R110): A + M -> A. -/
def execAddA (m : Src8) (s : State) : Result :=
  .next (binaryOp .a m (fun a v f => add8 a v false f) s)

/-- SUB B, Subtract (R113): B - M -> B. -/
def execSubB (m : Src8) (s : State) : Result :=
  .next (binaryOp .b m (fun a v f => sub8 a v false f) s)

/-- CMP B, Compare (R116): B - M, flags only. -/
def execCmpB (m : Src8) (s : State) : Result :=
  .next (compareOp .b m (fun a v f => (sub8 a v false f).2) s)

/-- SBC B, Subtract with Carry (R114): B - M - C -> B. -/
def execSbcB (m : Src8) (s : State) : Result :=
  .next (binaryOp .b m (fun a v f => sub8 a v f.c f) s)

/-- ADC B, Add with Carry (R111): B + M + C -> B. -/
def execAdcB (m : Src8) (s : State) : Result :=
  .next (binaryOp .b m (fun a v f => add8 a v f.c f) s)

/-- ADD B, Add (R110): B + M -> B. -/
def execAddB (m : Src8) (s : State) : Result :=
  .next (binaryOp .b m (fun a v f => add8 a v false f) s)

end Sys2Proof.Machine
end

