-- ==== Sys2Proof/Machine/Branch.lean ====
section
/-! DEFINITION. Meanings of file 44: the branches, BSR JMP JSR NOP RTS RTI SWI WAI; and the unassigned opcodes.
One definition an instruction, over the shared operations. Every assigned one gives a next state
(R270); an unassigned opcode refuses (R92). -/

namespace Sys2Proof.Machine

/-- NOP, No Operation (R228): nothing but the cycle. -/
def execNop (s : State) : Result := .next s.dummyRead

/-- BRA, Branch Always (R210): always taken. -/
def execBra (rel : Byte) (s : State) : Result := .next (branchIf true rel s)

/-- BHI, Branch If Higher (R216): taken when C or Z = 0. -/
def execBhi (rel : Byte) (s : State) : Result := .next (branchIf (!(s.ccr.c || s.ccr.z)) rel s)

/-- BLS, Branch If Lower Or Same (R218): taken when C or Z = 1. -/
def execBls (rel : Byte) (s : State) : Result := .next (branchIf (s.ccr.c || s.ccr.z) rel s)

/-- BCC, Branch If Carry Clear (R211): taken when C = 0. -/
def execBcc (rel : Byte) (s : State) : Result := .next (branchIf (!s.ccr.c) rel s)

/-- BCS, Branch If Carry Set (R212): taken when C = 1. -/
def execBcs (rel : Byte) (s : State) : Result := .next (branchIf s.ccr.c rel s)

/-- BNE, Branch If Not Equal Zero (R221): taken when Z = 0. -/
def execBne (rel : Byte) (s : State) : Result := .next (branchIf (!s.ccr.z) rel s)

/-- BEQ, Branch If = Zero (R213): taken when Z = 1. -/
def execBeq (rel : Byte) (s : State) : Result := .next (branchIf s.ccr.z rel s)

/-- BVC, Branch If Overflow Clear (R222): taken when V = 0. -/
def execBvc (rel : Byte) (s : State) : Result := .next (branchIf (!s.ccr.v) rel s)

/-- BVS, Branch If Overflow Set (R223): taken when V = 1. -/
def execBvs (rel : Byte) (s : State) : Result := .next (branchIf s.ccr.v rel s)

/-- BPL, Branch If Plus (R224): taken when N = 0. -/
def execBpl (rel : Byte) (s : State) : Result := .next (branchIf (!s.ccr.n) rel s)

/-- BMI, Branch If Minus (R220): taken when N = 1. -/
def execBmi (rel : Byte) (s : State) : Result := .next (branchIf s.ccr.n rel s)

/-- BGE, Branch If at least Zero (signed) (R214): taken when N xor V = 0. -/
def execBge (rel : Byte) (s : State) : Result := .next (branchIf (!(s.ccr.n ^^ s.ccr.v)) rel s)

/-- BLT, Branch If below Zero (signed) (R219): taken when N xor V = 1. -/
def execBlt (rel : Byte) (s : State) : Result := .next (branchIf (s.ccr.n ^^ s.ccr.v) rel s)

/-- BGT, Branch If above Zero (signed) (R215): taken when Z or (N xor V) = 0. -/
def execBgt (rel : Byte) (s : State) : Result :=
  .next (branchIf (!(s.ccr.z || (s.ccr.n ^^ s.ccr.v))) rel s)

/-- BLE, Branch If at most Zero (signed) (R217): taken when Z or (N xor V) = 1. -/
def execBle (rel : Byte) (s : State) : Result :=
  .next (branchIf (s.ccr.z || (s.ccr.n ^^ s.ccr.v)) rel s)

/-- RTS, Return From Subroutine (R229): the return address from the stack. -/
def execRts (s : State) : Result :=
  let t := s.dummyRead.idle s.sp
  .next (t.pullWord.setPc t.pullWordData)

/-- RTI, Return From Interrupt (R230): all registers but SP from the stack. -/
def execRti (s : State) : Result := .next s.dummyRead.returnFromInterrupt

/-- WAI, Wait for Interrupt (R232): stack the registers and wait; I is kept until the interrupt
comes. -/
def execWai (s : State) : Result := .next (s.dummyRead.stackRegisters.setRun .waiting)

/-- SWI, Software Interrupt (R231): stack the registers, set I, PC from FFFA. -/
def execSwi (s : State) : Result := .next (s.dummyRead.takeInterrupt .swi)

/-- JMP, Jump (R226): PC <- the effective address itself. -/
def execJmp (m : IndExt) (s : State) : Result :=
  .next ((m.toMem.address s).setPc (m.toMem.ea s))

/-- BSR, Branch To Subroutine (R225): the return address to the stack, PC <- PC + 2 + offset. -/
def execBsr (rel : Byte) (s : State) : Result :=
  let t := ((s.idle s.pc).pushWord s.pc).idle (s.sp - 2)
  .next (((t.idle s.pc).idle (branchTarget s rel)).setPc (branchTarget s rel))

/-- JSR, Jump To Subroutine (R227): the return address to the stack, PC <- the effective address. The
extended form reads the subroutine's first byte and its own third byte again (R62). Where the pushes
hit that third byte, the target's low byte is a free value (D14, U10, log 6). -/
def execJsr (m : IndExt) (s : State) : Result :=
  match m with
  | .ind o =>
    let t := ((s.idle s.x).pushWord s.pc).idle (s.sp - 2)
    .next (((t.idle s.x).idle (sumWithoutCarry s.x o)).setPc (s.x + zext16 o))
  | .ext a =>
    let third := s.pc - 1
    let t := ((s.readCycle a).pushWord s.pc).idle (s.sp - 2)
    let t := (t.idle third).readCycle third
    if s.sp = third ∨ s.sp - 1 = third then
      .next ((t.setPc (joinBytes (hi8 a) (Config.freeByte s.draws))).setDraws (s.draws + 1))
    else .next (t.setPc a)

/-- An unassigned opcode (R92): the spec gives it no effect at all, so the model refuses (D1, log 9). -/
def execUnassigned (opcode : Byte) (_s : State) : Result := .refused (.unassignedOpcode opcode)

end Sys2Proof.Machine
end

