-- ==== Sys2Proof/Machine/CondCode.lean ====
section
/-! DEFINITION. Meanings of file 45: CLC CLI CLV SEC SEI SEV TAP TPA.
One definition an instruction, over the shared operations. None can raise an exception (R270), so each gives a next state. -/

namespace Sys2Proof.Machine

/-- TAP, A to CCR (R256): A -> CCR; a cleared I is delayed (log 16). -/
def execTap (s : State) : Result := .next (s.dummyRead.loadCcrDelayed (Ccr.ofByte s.a))

/-- TPA, CCR to A (R257): CCR -> A. -/
def execTpa (s : State) : Result := .next (s.dummyRead.setA s.ccr.toByte)

/-- CLV, Clear Overflow (R252): 0 -> V. -/
def execClv (s : State) : Result := .next (flagOp (fun f => { f with v := false }) s)

/-- SEV, Set Overflow (R255): 1 -> V. -/
def execSev (s : State) : Result := .next (flagOp (fun f => { f with v := true }) s)

/-- CLC, Clear Carry (R250): 0 -> C. -/
def execClc (s : State) : Result := .next (flagOp (fun f => { f with c := false }) s)

/-- SEC, Set Carry (R253): 1 -> C. -/
def execSec (s : State) : Result := .next (flagOp (fun f => { f with c := true }) s)

/-- CLI, Clear Interrupt Mask (R251): 0 -> I, delayed by one boundary if I was 1 (log 16). -/
def execCli (s : State) : Result := .next (s.dummyRead.loadCcrDelayed { s.ccr with i := false })

/-- SEI, Set Interrupt Mask (R254): 1 -> I. -/
def execSei (s : State) : Result := .next (flagOp (fun f => { f with i := true }) s)

end Sys2Proof.Machine
end

