-- ==== Sys2Proof/Machine/IndexStack.lean ====
section
/-! DEFINITION. Meanings of file 43: CPX INX INS DEX DES LDX LDS STX STS TXS TSX.
One definition an instruction, over the shared operations. None can raise an exception (R270), so each gives a next state. -/

namespace Sys2Proof.Machine

/-- INX, Increment X (R191): X + 1 -> X, Z only. -/
def execInx (s : State) : Result :=
  .next ((indexOp s.x (s.x + 1) s).setCcr (indexFlags (s.x + 1) s.ccr))

/-- DEX, Decrement X (R193): X - 1 -> X, Z only. -/
def execDex (s : State) : Result :=
  .next ((indexOp s.x (s.x - 1) s).setCcr (indexFlags (s.x - 1) s.ccr))

/-- TSX, SP + 1 to X (R200): SP + 1 -> X, no flag. -/
def execTsx (s : State) : Result := .next (indexOp s.sp (s.sp + 1) s)

/-- INS, Increment SP (R192): SP + 1 -> SP, no flag. -/
def execIns (s : State) : Result := .next (stackPointerOp s.sp (s.sp + 1) s)

/-- DES, Decrement SP (R194): SP - 1 -> SP, no flag. -/
def execDes (s : State) : Result := .next (stackPointerOp s.sp (s.sp - 1) s)

/-- TXS, X - 1 to SP (R199): X - 1 -> SP, no flag. -/
def execTxs (s : State) : Result := .next (stackPointerOp s.x (s.x - 1) s)

/-- CPX, Compare X (R190): XH - M, XL - (M + 1), flags only. -/
def execCpx (m : Src16) (s : State) : Result :=
  .next ((m.access s).setCcr (cpxFlags s.x (m.value s) s.ccr))

/-- LDS, Load SP (R196): M -> SPH, (M + 1) -> SPL. -/
def execLds (m : Src16) (s : State) : Result :=
  .next (((m.access s).setSp (m.value s)).setCcr (wordFlags (m.value s) s.ccr))

/-- STS, Store SP (R198): SPH -> M, SPL -> (M + 1). -/
def execSts (m : Mem) (s : State) : Result := .next (storeWord s.sp m s)

/-- LDX, Load X (R195): M -> XH, (M + 1) -> XL; an indexed address uses the old X. -/
def execLdx (m : Src16) (s : State) : Result :=
  .next (((m.access s).setX (m.value s)).setCcr (wordFlags (m.value s) s.ccr))

/-- STX, Store X (R197): XH -> M, XL -> (M + 1). -/
def execStx (m : Mem) (s : State) : Result := .next (storeWord s.x m s)

end Sys2Proof.Machine
end

