-- ==== Sys2Proof/Machine/LoadStore.lean ====
section
/-! DEFINITION. Meanings of file 42: LDA STA TAB TBA PSH PUL.
One definition an instruction, over the shared operations. None can raise an exception (R270), so each gives a next state. -/

namespace Sys2Proof.Machine

/-- TAB, A to B (R172): A -> B. -/
def execTab (s : State) : Result := .next (accOp .b (fun _ f => (s.a, logicFlags s.a f)) s)

/-- TBA, B to A (R173): B -> A. -/
def execTba (s : State) : Result := .next (accOp .a (fun _ f => (s.b, logicFlags s.b f)) s)

/-- PUL A, Pull Data (R175): SP + 1 -> SP, Msp -> A. -/
def execPulA (s : State) : Result := .next (pullAcc .a s)

/-- PUL B, Pull Data (R175): SP + 1 -> SP, Msp -> B. -/
def execPulB (s : State) : Result := .next (pullAcc .b s)

/-- PSH A, Push Data (R174): A -> Msp, SP - 1 -> SP. -/
def execPshA (s : State) : Result := .next (pushAcc .a s)

/-- PSH B, Push Data (R174): B -> Msp, SP - 1 -> SP. -/
def execPshB (s : State) : Result := .next (pushAcc .b s)

/-- LDA A, Load Accumulator (R170): M -> A. -/
def execLdaA (m : Src8) (s : State) : Result :=
  .next (binaryOp .a m (fun _ v f => (v, logicFlags v f)) s)

/-- STA A, Store Accumulator (R171): A -> M. -/
def execStaA (m : Mem) (s : State) : Result := .next (storeAcc .a m s)

/-- LDA B, Load Accumulator (R170): M -> B. -/
def execLdaB (m : Src8) (s : State) : Result :=
  .next (binaryOp .b m (fun _ v f => (v, logicFlags v f)) s)

/-- STA B, Store Accumulator (R171): B -> M. -/
def execStaB (m : Mem) (s : State) : Result := .next (storeAcc .b m s)

end Sys2Proof.Machine
end

