-- ==== Sys2Proof/Machine/Logic.lean ====
section
/-! DEFINITION. Meanings of file 41: AND BIT EOR ORA COM CLR TST ROL ROR ASL ASR LSR.
One definition an instruction, over the shared operations. None can raise an exception (R270), so each gives a next state. -/

namespace Sys2Proof.Machine

/-- COM A, Complement (R144): complement of A -> A. -/
def execComA (s : State) : Result := .next (accOp .a com8 s)

/-- LSR A, Shift Right, Logic (R151): shift right, 0 enters. -/
def execLsrA (s : State) : Result := .next (accOp .a lsr8 s)

/-- ROR A, Rotate Right (R148): rotate right through C. -/
def execRorA (s : State) : Result := .next (accOp .a ror8 s)

/-- ASR A, Shift Right, Arithmetic (R150): shift right, sign kept. -/
def execAsrA (s : State) : Result := .next (accOp .a asr8 s)

/-- ASL A, Shift Left, Arithmetic (R149): shift left. -/
def execAslA (s : State) : Result := .next (accOp .a asl8 s)

/-- ROL A, Rotate Left (R147): rotate left through C. -/
def execRolA (s : State) : Result := .next (accOp .a rol8 s)

/-- TST A, Test, Zero or Minus (R146): A - 00, flags only. -/
def execTstA (s : State) : Result := .next (accTest .a s)

/-- CLR A, Clear (R145): 00 -> A. -/
def execClrA (s : State) : Result := .next (accOp .a clr8 s)

/-- COM B, Complement (R144): complement of B -> B. -/
def execComB (s : State) : Result := .next (accOp .b com8 s)

/-- LSR B, Shift Right, Logic (R151): shift right, 0 enters. -/
def execLsrB (s : State) : Result := .next (accOp .b lsr8 s)

/-- ROR B, Rotate Right (R148): rotate right through C. -/
def execRorB (s : State) : Result := .next (accOp .b ror8 s)

/-- ASR B, Shift Right, Arithmetic (R150): shift right, sign kept. -/
def execAsrB (s : State) : Result := .next (accOp .b asr8 s)

/-- ASL B, Shift Left, Arithmetic (R149): shift left. -/
def execAslB (s : State) : Result := .next (accOp .b asl8 s)

/-- ROL B, Rotate Left (R147): rotate left through C. -/
def execRolB (s : State) : Result := .next (accOp .b rol8 s)

/-- TST B, Test, Zero or Minus (R146): B - 00, flags only. -/
def execTstB (s : State) : Result := .next (accTest .b s)

/-- CLR B, Clear (R145): 00 -> B. -/
def execClrB (s : State) : Result := .next (accOp .b clr8 s)

/-- COM, Complement (R144): complement of M -> M. -/
def execCom (m : IndExt) (s : State) : Result := .next (memOp m com8 s)

/-- LSR, Shift Right, Logic (R151): shift right, 0 enters. -/
def execLsr (m : IndExt) (s : State) : Result := .next (memOp m lsr8 s)

/-- ROR, Rotate Right (R148): rotate right through C. -/
def execRor (m : IndExt) (s : State) : Result := .next (memOp m ror8 s)

/-- ASR, Shift Right, Arithmetic (R150): shift right, sign kept. -/
def execAsr (m : IndExt) (s : State) : Result := .next (memOp m asr8 s)

/-- ASL, Shift Left, Arithmetic (R149): shift left. -/
def execAsl (m : IndExt) (s : State) : Result := .next (memOp m asl8 s)

/-- ROL, Rotate Left (R147): rotate left through C. -/
def execRol (m : IndExt) (s : State) : Result := .next (memOp m rol8 s)

/-- TST, Test, Zero or Minus (R146): M - 00, flags only. -/
def execTst (m : IndExt) (s : State) : Result := .next (memTest m s)

/-- CLR, Clear (R145): 00 -> M. -/
def execClr (m : IndExt) (s : State) : Result := .next (memOp m clr8 s)

/-- AND A, And (R140): A and M -> A. -/
def execAndA (m : Src8) (s : State) : Result :=
  .next (binaryOp .a m (fun a v f => (a &&& v, logicFlags (a &&& v) f)) s)

/-- BIT A, Bit Test (R141): A and M, flags only. -/
def execBitA (m : Src8) (s : State) : Result :=
  .next (compareOp .a m (fun a v f => logicFlags (a &&& v) f) s)

/-- EOR A, Exclusive OR (R142): A xor M -> A. -/
def execEorA (m : Src8) (s : State) : Result :=
  .next (binaryOp .a m (fun a v f => (a ^^^ v, logicFlags (a ^^^ v) f)) s)

/-- ORA A, Or, Inclusive (R143): A or M -> A. -/
def execOraA (m : Src8) (s : State) : Result :=
  .next (binaryOp .a m (fun a v f => (a ||| v, logicFlags (a ||| v) f)) s)

/-- AND B, And (R140): B and M -> B. -/
def execAndB (m : Src8) (s : State) : Result :=
  .next (binaryOp .b m (fun a v f => (a &&& v, logicFlags (a &&& v) f)) s)

/-- BIT B, Bit Test (R141): B and M, flags only. -/
def execBitB (m : Src8) (s : State) : Result :=
  .next (compareOp .b m (fun a v f => logicFlags (a &&& v) f) s)

/-- EOR B, Exclusive OR (R142): B xor M -> B. -/
def execEorB (m : Src8) (s : State) : Result :=
  .next (binaryOp .b m (fun a v f => (a ^^^ v, logicFlags (a ^^^ v) f)) s)

/-- ORA B, Or, Inclusive (R143): B or M -> B. -/
def execOraB (m : Src8) (s : State) : Result :=
  .next (binaryOp .b m (fun a v f => (a ||| v, logicFlags (a ||| v) f)) s)

end Sys2Proof.Machine
end

