-- ==== Sys2Proof/Machine/Dispatch.lean ====
section
/-! DEFINITION. The dispatch: one arm an instruction. PC holds the opcode address when `exec` starts
(R13), and the meaning makes every cycle of the instruction, the opcode fetch among them. -/

namespace Sys2Proof.Machine

def exec (i : Instr) (s : State) : Host.Outcome State Fault Refusal :=
  match i with
  | .sba => Sys2Proof.Machine.execSba s
  | .cba => Sys2Proof.Machine.execCba s
  | .daa => Sys2Proof.Machine.execDaa s
  | .aba => Sys2Proof.Machine.execAba s
  | .negA => Sys2Proof.Machine.execNegA s
  | .decA => Sys2Proof.Machine.execDecA s
  | .incA => Sys2Proof.Machine.execIncA s
  | .negB => Sys2Proof.Machine.execNegB s
  | .decB => Sys2Proof.Machine.execDecB s
  | .incB => Sys2Proof.Machine.execIncB s
  | .neg m => Sys2Proof.Machine.execNeg m s
  | .dec m => Sys2Proof.Machine.execDec m s
  | .inc m => Sys2Proof.Machine.execInc m s
  | .subA m => Sys2Proof.Machine.execSubA m s
  | .cmpA m => Sys2Proof.Machine.execCmpA m s
  | .sbcA m => Sys2Proof.Machine.execSbcA m s
  | .adcA m => Sys2Proof.Machine.execAdcA m s
  | .addA m => Sys2Proof.Machine.execAddA m s
  | .subB m => Sys2Proof.Machine.execSubB m s
  | .cmpB m => Sys2Proof.Machine.execCmpB m s
  | .sbcB m => Sys2Proof.Machine.execSbcB m s
  | .adcB m => Sys2Proof.Machine.execAdcB m s
  | .addB m => Sys2Proof.Machine.execAddB m s
  | .comA => Sys2Proof.Machine.execComA s
  | .lsrA => Sys2Proof.Machine.execLsrA s
  | .rorA => Sys2Proof.Machine.execRorA s
  | .asrA => Sys2Proof.Machine.execAsrA s
  | .aslA => Sys2Proof.Machine.execAslA s
  | .rolA => Sys2Proof.Machine.execRolA s
  | .tstA => Sys2Proof.Machine.execTstA s
  | .clrA => Sys2Proof.Machine.execClrA s
  | .comB => Sys2Proof.Machine.execComB s
  | .lsrB => Sys2Proof.Machine.execLsrB s
  | .rorB => Sys2Proof.Machine.execRorB s
  | .asrB => Sys2Proof.Machine.execAsrB s
  | .aslB => Sys2Proof.Machine.execAslB s
  | .rolB => Sys2Proof.Machine.execRolB s
  | .tstB => Sys2Proof.Machine.execTstB s
  | .clrB => Sys2Proof.Machine.execClrB s
  | .com m => Sys2Proof.Machine.execCom m s
  | .lsr m => Sys2Proof.Machine.execLsr m s
  | .ror m => Sys2Proof.Machine.execRor m s
  | .asr m => Sys2Proof.Machine.execAsr m s
  | .asl m => Sys2Proof.Machine.execAsl m s
  | .rol m => Sys2Proof.Machine.execRol m s
  | .tst m => Sys2Proof.Machine.execTst m s
  | .clr m => Sys2Proof.Machine.execClr m s
  | .andA m => Sys2Proof.Machine.execAndA m s
  | .bitA m => Sys2Proof.Machine.execBitA m s
  | .eorA m => Sys2Proof.Machine.execEorA m s
  | .oraA m => Sys2Proof.Machine.execOraA m s
  | .andB m => Sys2Proof.Machine.execAndB m s
  | .bitB m => Sys2Proof.Machine.execBitB m s
  | .eorB m => Sys2Proof.Machine.execEorB m s
  | .oraB m => Sys2Proof.Machine.execOraB m s
  | .tab => Sys2Proof.Machine.execTab s
  | .tba => Sys2Proof.Machine.execTba s
  | .pulA => Sys2Proof.Machine.execPulA s
  | .pulB => Sys2Proof.Machine.execPulB s
  | .pshA => Sys2Proof.Machine.execPshA s
  | .pshB => Sys2Proof.Machine.execPshB s
  | .ldaA m => Sys2Proof.Machine.execLdaA m s
  | .staA m => Sys2Proof.Machine.execStaA m s
  | .ldaB m => Sys2Proof.Machine.execLdaB m s
  | .staB m => Sys2Proof.Machine.execStaB m s
  | .inx => Sys2Proof.Machine.execInx s
  | .dex => Sys2Proof.Machine.execDex s
  | .tsx => Sys2Proof.Machine.execTsx s
  | .ins => Sys2Proof.Machine.execIns s
  | .des => Sys2Proof.Machine.execDes s
  | .txs => Sys2Proof.Machine.execTxs s
  | .cpx m => Sys2Proof.Machine.execCpx m s
  | .lds m => Sys2Proof.Machine.execLds m s
  | .sts m => Sys2Proof.Machine.execSts m s
  | .ldx m => Sys2Proof.Machine.execLdx m s
  | .stx m => Sys2Proof.Machine.execStx m s
  | .nop => Sys2Proof.Machine.execNop s
  | .bra rel => Sys2Proof.Machine.execBra rel s
  | .bhi rel => Sys2Proof.Machine.execBhi rel s
  | .bls rel => Sys2Proof.Machine.execBls rel s
  | .bcc rel => Sys2Proof.Machine.execBcc rel s
  | .bcs rel => Sys2Proof.Machine.execBcs rel s
  | .bne rel => Sys2Proof.Machine.execBne rel s
  | .beq rel => Sys2Proof.Machine.execBeq rel s
  | .bvc rel => Sys2Proof.Machine.execBvc rel s
  | .bvs rel => Sys2Proof.Machine.execBvs rel s
  | .bpl rel => Sys2Proof.Machine.execBpl rel s
  | .bmi rel => Sys2Proof.Machine.execBmi rel s
  | .bge rel => Sys2Proof.Machine.execBge rel s
  | .blt rel => Sys2Proof.Machine.execBlt rel s
  | .bgt rel => Sys2Proof.Machine.execBgt rel s
  | .ble rel => Sys2Proof.Machine.execBle rel s
  | .rts => Sys2Proof.Machine.execRts s
  | .rti => Sys2Proof.Machine.execRti s
  | .wai => Sys2Proof.Machine.execWai s
  | .swi => Sys2Proof.Machine.execSwi s
  | .jmp m => Sys2Proof.Machine.execJmp m s
  | .bsr rel => Sys2Proof.Machine.execBsr rel s
  | .jsr m => Sys2Proof.Machine.execJsr m s
  | .tap => Sys2Proof.Machine.execTap s
  | .tpa => Sys2Proof.Machine.execTpa s
  | .clv => Sys2Proof.Machine.execClv s
  | .sev => Sys2Proof.Machine.execSev s
  | .clc => Sys2Proof.Machine.execClc s
  | .sec => Sys2Proof.Machine.execSec s
  | .cli => Sys2Proof.Machine.execCli s
  | .sei => Sys2Proof.Machine.execSei s
  | .unassigned opcode => Sys2Proof.Machine.execUnassigned opcode s

end Sys2Proof.Machine
end

