-- ==== Sys2Proof/Machine/Step.lean ====
section
/-! DEFINITION. One step of the machine, and where it fetches. -/

namespace Sys2Proof.Machine

/-- One step (R300): one boundary and the instruction, interrupt, reset, wait or halt step after it. -/
def step (s : State) : Host.Outcome State Fault Refusal :=
  s.atBoundary exec

/-- `s` with the instruction of a table word at PC and nothing in the way of its fetch (log 38). -/
def State.withFetchWord (s : State) (nbits w : Nat) : State :=
  (s.undisturbed).placeBytes s.pc (w % 2 ^ nbits)

end Sys2Proof.Machine
end

