-- ==== Sys2Proof/Machine/Signals.lean ====
section
/-! DEFINITION. The output lines (R33, R43): in each cycle of the bus record, and while the MPU rests and
no cycle runs. -/

namespace Sys2Proof.Machine

/-- The output lines; `none` is the high-impedance state. -/
structure Pins where
  ba : Level
  vma : Level
  rw : Option Level
  addressBus : Option Word
  dataBus : Option Byte
deriving DecidableEq, Repr

/-- The output lines in a cycle of the MPU: BA is low, the MPU has the bus (R33, R43). -/
def BusCycle.pins (c : BusCycle) : Pins :=
  { ba := .low
    vma := if c.vma then .high else .low
    rw := some (if c.write then .low else .high)
    addressBus := some c.addr
    dataBus := c.data }

/-- Bus Available: high while the MPU waits or is halted, forced low by TSC, and low in all other states,
Running among them (R29, R33, R72, R73, R320). -/
def State.ba (s : State) : Level :=
  if s.lines.tsc = .high then .low
  else
    match s.run with
    | .waiting | .halted => .high
    | .running | .inReset => .low

/-- The output lines of a resting MPU. TSC high: VMA and BA forced low, address bus and R/W released
(R73, R292). RESET low: VMA and BA low, R/W high, FFFE on the address bus (R289, R320). Waiting or
halted: BA high, VMA low, all else released (R232, R290). A running MPU is not at rest: its lines are
those of its cycles. TSC does not affect the data bus, which has its own enable (R74), and no rule says what
it holds in a stopped cycle: that it is shown released, whatever DBE is, is the model's choice (log 26). -/
def State.restingPins (s : State) : Option Pins :=
  if s.lines.tsc = .high then
    some { ba := s.ba, vma := .low, rw := none, addressBus := none, dataBus := none }
  else
    match s.run with
    | .inReset =>
      some { ba := s.ba, vma := .low, rw := some .high, addressBus := some 0xFFFE, dataBus := none }
    | .waiting | .halted =>
      some { ba := s.ba, vma := .low, rw := none, addressBus := none, dataBus := none }
    | .running => none

end Sys2Proof.Machine
end

