-- ==== Sys2Proof/WellFormed.lean ====
section
/-! DEFINITION. Which terms of `Instr` are instructions. The operand types leave only one check: a
term `unassigned op` stands for one of the 59 opcodes of R92. -/

namespace Sys2Proof

/-- The 59 unassigned opcodes, as R92 lists them. -/
def unassignedOpcodes : List Byte :=
  [0x00, 0x02, 0x03, 0x04, 0x05, 0x12, 0x13, 0x14, 0x15, 0x18, 0x1A, 0x1C, 0x1D, 0x1E, 0x1F, 0x21] ++
  [0x38, 0x3A, 0x3C, 0x3D, 0x41, 0x42, 0x45, 0x4B, 0x4E, 0x51, 0x52, 0x55, 0x5B, 0x5E, 0x61, 0x62] ++
  [0x65, 0x6B, 0x71, 0x72, 0x75, 0x7B, 0x83, 0x87, 0x8F, 0x93, 0x9D, 0xA3, 0xB3, 0xC3, 0xC7, 0xCC] ++
  [0xCD, 0xCF, 0xD3, 0xDC, 0xDD, 0xE3, 0xEC, 0xED, 0xF3, 0xFC, 0xFD]

/-- R92: the opcode is one of the 59 unassigned ones. -/
def isUnassigned (op : Byte) : Bool := unassignedOpcodes.contains op

/-- Well-formed instructions. Every operand byte of an assigned instruction is legal (R80, R88). -/
def Instr.wf : Instr → Bool
  | .nop | .tap | .tpa | .inx | .dex | .clv | .sev | .clc | .sec | .cli | .sei | .sba | .cba
  | .tab | .tba | .daa | .aba | .bra _ | .bhi _ | .bls _ | .bcc _ | .bcs _ | .bne _ | .beq _
  | .bvc _ | .bvs _ | .bpl _ | .bmi _ | .bge _ | .blt _ | .bgt _ | .ble _ | .tsx | .ins
  | .pulA | .pulB | .des | .txs | .pshA | .pshB | .rts | .rti | .wai | .swi | .negA | .comA
  | .lsrA | .rorA | .asrA | .aslA | .rolA | .decA | .incA | .tstA | .clrA | .negB | .comB
  | .lsrB | .rorB | .asrB | .aslB | .rolB | .decB | .incB | .tstB | .clrB | .neg _ | .com _
  | .lsr _ | .ror _ | .asr _ | .asl _ | .rol _ | .dec _ | .inc _ | .tst _ | .jmp _ | .clr _
  | .subA _ | .cmpA _ | .sbcA _ | .andA _ | .bitA _ | .ldaA _ | .eorA _ | .adcA _ | .oraA _
  | .addA _ | .cpx _ | .bsr _ | .lds _ | .staA _ | .sts _ | .jsr _ | .subB _ | .cmpB _
  | .sbcB _ | .andB _ | .bitB _ | .ldaB _ | .eorB _ | .adcB _ | .oraB _ | .addB _ | .ldx _
  | .staB _ | .stx _ => true
  | .unassigned op => isUnassigned op

end Sys2Proof
end

