-- ==== Sys2Proof/Safety.lean ====
section
/-! DEFINITION. The words that claims are made in: what a step leaves unchanged, what an instruction's
rule says of result and flags, and the invariants of a run. -/

namespace Sys2Proof

/-! ## Tables of the spec that claims compare the model with -/

/-- Cycles of an 8-bit source: IMM, DIR, IND, EXT (R340). -/
def Src8.cycles : Src8 → Nat
  | .imm _ => 2
  | .mem (.dir _) => 3
  | .mem (.ind _) => 5
  | .mem (.ext _) => 4

/-- Cycles of a 16-bit source: IMM, DIR, IND, EXT (R340). -/
def Src16.cycles : Src16 → Nat
  | .imm _ => 3
  | .mem (.dir _) => 4
  | .mem (.ind _) => 6
  | .mem (.ext _) => 5

/-- Cycles by memory mode: DIR, IND, EXT. -/
def Mem.cycles (dir ind ext : Nat) : Mem → Nat
  | .dir _ => dir
  | .ind _ => ind
  | .ext _ => ext

/-- Cycles by memory mode: IND, EXT. -/
def IndExt.cycles (ind ext : Nat) : IndExt → Nat
  | .ind _ => ind
  | .ext _ => ext

/-- The number of MPU cycles of an instruction (R340); an unassigned opcode has none. -/
def Instr.cycles : Instr → Nat
  | .nop | .tap | .tpa | .clv | .sev | .clc | .sec | .cli | .sei | .sba | .cba | .tab
  | .tba | .daa | .aba | .negA | .comA | .lsrA | .rorA | .asrA | .aslA | .rolA | .decA
  | .incA | .tstA | .clrA | .negB | .comB | .lsrB | .rorB | .asrB | .aslB | .rolB | .decB
  | .incB | .tstB | .clrB => 2
  | .inx | .dex | .tsx | .ins | .pulA | .pulB | .des | .txs | .pshA | .pshB => 4
  | .bra _ | .bhi _ | .bls _ | .bcc _ | .bcs _ | .bne _ | .beq _ | .bvc _ | .bvs _ | .bpl _
  | .bmi _ | .bge _ | .blt _ | .bgt _ | .ble _ => 4
  | .rts => 5
  | .rti => 10
  | .wai => 9
  | .swi => 12
  | .neg m | .com m | .lsr m | .ror m | .asr m | .asl m | .rol m | .dec m | .inc m | .tst m
  | .clr m => m.cycles 7 6
  | .jmp m => m.cycles 4 3
  | .subA m | .cmpA m | .sbcA m | .andA m | .bitA m | .ldaA m | .eorA m | .adcA m | .oraA m
  | .addA m | .subB m | .cmpB m | .sbcB m | .andB m | .bitB m | .ldaB m | .eorB m | .adcB m
  | .oraB m | .addB m => m.cycles
  | .cpx m | .lds m | .ldx m => m.cycles
  | .bsr _ => 8
  | .staA m | .staB m => m.cycles 4 6 5
  | .sts m | .stx m => m.cycles 5 7 6
  | .jsr m => m.cycles 8 9
  | .unassigned _ => 0

/-- The flag columns of R24 as sets of flags: true where the instruction may write the flag. -/
def Instr.mayWrite : Instr → Machine.Ccr
  | .nop | .tpa | .bra _ | .bhi _ | .bls _ | .bcc _ | .bcs _ | .bne _ | .beq _ | .bvc _
  | .bvs _ | .bpl _ | .bmi _ | .bge _ | .blt _ | .bgt _ | .ble _ | .tsx | .ins | .pulA
  | .pulB | .des | .txs | .pshA | .pshB | .rts | .wai | .jmp _ | .bsr _ | .jsr _ => ⟨false, false, false, false, false, false⟩
  | .tap | .rti => ⟨true, true, true, true, true, true⟩
  | .inx | .dex => ⟨false, false, false, true, false, false⟩
  | .clv | .sev => ⟨false, false, false, false, true, false⟩
  | .clc | .sec => ⟨false, false, false, false, false, true⟩
  | .cli | .sei | .swi => ⟨false, true, false, false, false, false⟩
  | .sba | .cba | .daa | .negA | .comA | .lsrA | .rorA | .asrA | .aslA | .rolA | .tstA
  | .clrA | .negB | .comB | .lsrB | .rorB | .asrB | .aslB | .rolB | .tstB | .clrB | .neg _
  | .com _ | .lsr _ | .ror _ | .asr _ | .asl _ | .rol _ | .tst _ | .clr _ | .subA _
  | .cmpA _ | .sbcA _ | .subB _ | .cmpB _ | .sbcB _ => ⟨false, false, true, true, true, true⟩
  | .tab | .tba | .decA | .incA | .decB | .incB | .dec _ | .inc _ | .andA _ | .bitA _
  | .ldaA _ | .eorA _ | .oraA _ | .cpx _ | .lds _ | .staA _ | .sts _ | .andB _ | .bitB _
  | .ldaB _ | .eorB _ | .oraB _ | .ldx _ | .staB _ | .stx _ => ⟨false, false, true, true, true, false⟩
  | .aba | .adcA _ | .addA _ | .adcB _ | .addB _ => ⟨true, false, true, true, true, true⟩
  | .unassigned _ => ⟨false, false, false, false, false, false⟩

namespace Machine

/-! ## The bus: what is read, what is written, what stays as it was -/

/-- No other master writes this byte in the cycles to come (R73). -/
def Untouched (inputs : List CycleInput) (addr : Word) : Prop :=
  ∀ c ∈ inputs, addr ∉ c.others.map Prod.fst

/-- DBE is not held low in the cycles to come: what the MPU writes is on the data bus (R74). -/
def DrivesData (inputs : List CycleInput) : Prop := ∀ c ∈ inputs, c.dbe = none

/-- The platform has memory at this address, RAM or ROM (R44). -/
def InMemory (s : State) (addr : Word) : Prop :=
  kindAt s.bus.platform addr = .ram ∨ kindAt s.bus.platform addr = .rom

/-- A read of this address gets the byte in memory, in whichever of the cycles to come. -/
def ReadsMemory (s : State) (addr : Word) : Prop := InMemory s addr ∧ Untouched s.bus.inputs addr

/-- A write to this address puts the byte into memory, and it stays there in the cycles to come. -/
def StoresMemory (s : State) (addr : Word) : Prop :=
  kindAt s.bus.platform addr = .ram ∧ Untouched s.bus.inputs addr ∧ DrivesData s.bus.inputs

/-- The bytes that the MPU's cycles write, in order. -/
def mpuWrites (events : List BusEvent) : List (Word × Byte) :=
  (mpuCycles events).filterMap fun c =>
    if c.vma && c.write then c.data.map (fun v => (c.addr, v)) else none

/-- The bytes that the MPU's cycles read, in order. -/
def mpuReads (events : List BusEvent) : List (Word × Byte) :=
  (mpuCycles events).filterMap fun c =>
    if c.vma && !c.write then c.data.map (fun v => (c.addr, v)) else none

/-- Between two states the MPU writes exactly these bytes on the bus, in this order. Each lands where the
platform has RAM and nowhere else; every byte of memory outside their addresses that no other master
writes meanwhile reads as before; the platform stays. -/
def Stores (ws : List (Word × Byte)) (s t : State) : Prop :=
  (∃ new, t.bus.record = s.bus.record ++ new ∧ (mpuWrites new).map Prod.fst = ws.map Prod.fst ∧
    (DrivesData s.bus.inputs → mpuWrites new = ws)) ∧
  (∀ w ∈ ws, StoresMemory s w.1 → t.mem.read w.1 = w.2) ∧
  (∀ addr, Untouched s.bus.inputs addr →
    addr ∉ ws.map Prod.fst ∨ kindAt s.bus.platform addr ≠ .ram →
    t.mem.read addr = s.mem.read addr) ∧
  t.bus.platform = s.bus.platform

/-- The last reads of the MPU between two states get exactly these bytes, in this order; each is the one
in memory where memory answers and no other master writes it meanwhile. -/
def Reads (rs : List (Word × Byte)) (s t : State) : Prop :=
  (∃ new before, t.bus.record = s.bus.record ++ new ∧ mpuReads new = before ++ rs) ∧
  (∀ r ∈ rs, ReadsMemory s r.1 → r.2 = t.mem.read r.1)

/-- Only the flags and the bus may differ, and nothing is stored. -/
def OnlyFlags (s t : State) : Prop := t = { s with ccr := t.ccr, bus := t.bus } ∧ Stores [] s t

/-- Only PC and the bus may differ, and nothing is stored. -/
def OnlyPc (s t : State) : Prop := t = { s with pc := t.pc, bus := t.bus } ∧ Stores [] s t

/-- Only the named accumulator, the flags and the bus may differ, and nothing is stored. -/
def OnlyAcc (r : Acc) (s t : State) : Prop :=
  (match r with
    | .a => t = { s with a := t.a, ccr := t.ccr, bus := t.bus }
    | .b => t = { s with b := t.b, ccr := t.ccr, bus := t.bus }) ∧ Stores [] s t

/-- Only X, the flags and the bus may differ, and nothing is stored. -/
def OnlyX (s t : State) : Prop :=
  t = { s with x := t.x, ccr := t.ccr, bus := t.bus } ∧ Stores [] s t

/-- Only SP, the flags and the bus may differ, and nothing is stored. -/
def OnlySp (s t : State) : Prop :=
  t = { s with sp := t.sp, ccr := t.ccr, bus := t.bus } ∧ Stores [] s t

/-- Only the flags and the bus may differ, and exactly these bytes are stored. -/
def OnlyBytes (ws : List (Word × Byte)) (s t : State) : Prop :=
  t = { s with ccr := t.ccr, bus := t.bus } ∧ Stores ws s t

/-! ## Results and flags as the rules give them, in plain arithmetic -/

/-- N and Z of an 8-bit result (R20, R21). -/
def SignAndZero (r : Byte) (g : Ccr) : Prop :=
  (g.n = true ↔ 128 ≤ r.toNat) ∧ (g.z = true ↔ r.toNat = 0)

/-- ADD, ADC, ABA: the sum modulo 256 and its flags; V by the signed range, C by the unsigned range, H
by the low digits (R18, R20 to R23, R121). -/
def SumRule (p q : Byte) (cin : Bool) (f : Ccr) (r : Byte) (g : Ccr) : Prop :=
  r.toNat = (p.toNat + q.toNat + cin.toNat) % 256 ∧
  (g.h = true ↔ 15 < p.toNat % 16 + q.toNat % 16 + cin.toNat) ∧
  g.i = f.i ∧ SignAndZero r g ∧
  (g.v = true ↔ p.toInt + q.toInt + cin.toNat < -128 ∨ 127 < p.toInt + q.toInt + cin.toNat) ∧
  (g.c = true ↔ 255 < p.toNat + q.toNat + cin.toNat)

/-- Flags of a subtraction; C is the borrow, V the signed range, H kept (R20 to R23, R122). -/
def DifferenceFlags (p q : Byte) (bin : Bool) (f g : Ccr) : Prop :=
  g.h = f.h ∧ g.i = f.i ∧
  (g.n = true ↔ 128 ≤ (p.toNat + 512 - q.toNat - bin.toNat) % 256) ∧
  (g.z = true ↔ (p.toNat + 512 - q.toNat - bin.toNat) % 256 = 0) ∧
  (g.v = true ↔ p.toInt - q.toInt - bin.toNat < -128 ∨ 127 < p.toInt - q.toInt - bin.toNat) ∧
  (g.c = true ↔ p.toNat < q.toNat + bin.toNat)

/-- SUB, SBC, SBA: the difference modulo 256 and its flags (R113 to R115). -/
def DifferenceRule (p q : Byte) (bin : Bool) (f : Ccr) (r : Byte) (g : Ccr) : Prop :=
  r.toNat = (p.toNat + 512 - q.toNat - bin.toNat) % 256 ∧ DifferenceFlags p q bin f g

/-- NEG (R118); the C flag is the model's reading (log 11). -/
def NegRule (m : Byte) (f : Ccr) (r : Byte) (g : Ccr) : Prop :=
  r.toNat = (256 - m.toNat) % 256 ∧ g.h = f.h ∧ g.i = f.i ∧ SignAndZero r g ∧
  (g.v = true ↔ r.toNat = 128) ∧ (g.c = true ↔ r.toNat ≠ 0)

/-- INC (R119). -/
def IncRule (m : Byte) (f : Ccr) (r : Byte) (g : Ccr) : Prop :=
  r.toNat = (m.toNat + 1) % 256 ∧ g.h = f.h ∧ g.i = f.i ∧ SignAndZero r g ∧
  (g.v = true ↔ m.toNat = 127) ∧ g.c = f.c

/-- DEC (R120). -/
def DecRule (m : Byte) (f : Ccr) (r : Byte) (g : Ccr) : Prop :=
  r.toNat = (m.toNat + 255) % 256 ∧ g.h = f.h ∧ g.i = f.i ∧ SignAndZero r g ∧
  (g.v = true ↔ m.toNat = 128) ∧ g.c = f.c

/-- COM (R144). -/
def ComRule (m : Byte) (f : Ccr) (r : Byte) (g : Ccr) : Prop :=
  r.toNat = 255 - m.toNat ∧ g.h = f.h ∧ g.i = f.i ∧ SignAndZero r g ∧ g.v = false ∧ g.c = true

/-- CLR (R145). -/
def ClrRule (_m : Byte) (f : Ccr) (r : Byte) (g : Ccr) : Prop :=
  r = 0 ∧ g.h = f.h ∧ g.i = f.i ∧ g.n = false ∧ g.z = true ∧ g.v = false ∧ g.c = false

/-- Flags every shift and rotate shares: V is N xor C afterwards (note 6, R147 to R151). -/
def ShiftFlagsRule (f : Ccr) (r : Byte) (g : Ccr) : Prop :=
  g.h = f.h ∧ g.i = f.i ∧ SignAndZero r g ∧ (g.v = true ↔ g.n ≠ g.c)

/-- ROL (R147, log 12). -/
def RolRule (m : Byte) (f : Ccr) (r : Byte) (g : Ccr) : Prop :=
  r.toNat = (2 * m.toNat + f.c.toNat) % 256 ∧ (g.c = true ↔ 128 ≤ m.toNat) ∧ ShiftFlagsRule f r g

/-- ROR (R148, log 12). -/
def RorRule (m : Byte) (f : Ccr) (r : Byte) (g : Ccr) : Prop :=
  r.toNat = m.toNat / 2 + 128 * f.c.toNat ∧ (g.c = true ↔ m.toNat % 2 = 1) ∧ ShiftFlagsRule f r g

/-- ASL (R149). -/
def AslRule (m : Byte) (f : Ccr) (r : Byte) (g : Ccr) : Prop :=
  r.toNat = (2 * m.toNat) % 256 ∧ (g.c = true ↔ 128 ≤ m.toNat) ∧ ShiftFlagsRule f r g

/-- ASR: the sign bit stays (R150, log 12). -/
def AsrRule (m : Byte) (f : Ccr) (r : Byte) (g : Ccr) : Prop :=
  r.toNat = m.toNat / 2 + (if 128 ≤ m.toNat then 128 else 0) ∧
  (g.c = true ↔ m.toNat % 2 = 1) ∧ ShiftFlagsRule f r g

/-- LSR: N always reset (R151). -/
def LsrRule (m : Byte) (f : Ccr) (r : Byte) (g : Ccr) : Prop :=
  r.toNat = m.toNat / 2 ∧ g.n = false ∧ (g.c = true ↔ m.toNat % 2 = 1) ∧ ShiftFlagsRule f r g

/-- The flags of a logic result, load, store or transfer: N, Z, V reset, C kept (R140 to R143, R170 to
R173). -/
def LogicFlagsRule (r : Byte) (f g : Ccr) : Prop :=
  g.h = f.h ∧ g.i = f.i ∧ SignAndZero r g ∧ g.v = false ∧ g.c = f.c

/-- The flags of TST: C reset too (R146). -/
def TestFlagsRule (r : Byte) (f g : Ccr) : Prop :=
  g.h = f.h ∧ g.i = f.i ∧ SignAndZero r g ∧ g.v = false ∧ g.c = false

/-- The flags of a 16-bit load or store (R195 to R198, log 13). -/
def WordFlagsRule (w : Word) (f g : Ccr) : Prop :=
  g.h = f.h ∧ g.i = f.i ∧ (g.n = true ↔ 32768 ≤ w.toNat) ∧ (g.z = true ↔ w.toNat = 0) ∧
  g.v = false ∧ g.c = f.c

/-! ## Shapes of claims. Instructions start with PC after their own bytes, and keep it there unless
they load it. -/

/-- A one-operand instruction on an accumulator follows a rule and changes nothing else. -/
def UnaryOnAcc (i : Instr) (r : Acc) (rule : Byte → Ccr → Byte → Ccr → Prop) (s : State) : Prop :=
  ∃ t, exec i s = .next t ∧ rule (s.acc r) s.ccr (t.acc r) t.ccr ∧ OnlyAcc r s t

/-- A read-modify-write instruction reads the byte at the effective address, stores there the result of
a rule and changes nothing else. -/
def UnaryOnMemory (i : Instr) (m : IndExt) (rule : Byte → Ccr → Byte → Ccr → Prop) (s : State) : Prop :=
  ∃ t r, exec i s = .next t ∧ rule (m.toMem.value s) s.ccr r t.ccr ∧
    OnlyBytes [(m.toMem.ea s, r)] s t

/-- A two-operand instruction into an accumulator follows a rule and changes nothing else. -/
def BinaryOnAcc (i : Instr) (r : Acc) (q : Byte) (rule : Byte → Byte → Ccr → Byte → Ccr → Prop)
    (s : State) : Prop :=
  ∃ t, exec i s = .next t ∧ rule (s.acc r) q s.ccr (t.acc r) t.ccr ∧ OnlyAcc r s t

/-- An instruction that only tests: flags by a rule, nothing else. -/
def SetsFlags (i : Instr) (rule : Ccr → Ccr → Prop) (s : State) : Prop :=
  ∃ t, exec i s = .next t ∧ rule s.ccr t.ccr ∧ OnlyFlags s t

/-- The seven bytes that R276 stacks, with a return address, in their order. -/
def stackedBytes (ret : Word) (s : State) : List (Word × Byte) :=
  [(s.sp, lo8 ret), (s.sp - 1, hi8 ret), (s.sp - 2, lo8 s.x), (s.sp - 3, hi8 s.x), (s.sp - 4, s.a),
    (s.sp - 5, s.b), (s.sp - 6, s.ccr.toByte)]

/-- The seven bytes of R276 are stacked and nothing else is stored; SP is down by seven. -/
def StacksRegisters (ret : Word) (s t : State) : Prop :=
  t.sp = s.sp - 7 ∧ Stores (stackedBytes ret s) s t

/-- PC is loaded from a vector: the last two reads get its bytes, the high one first (R50). -/
def LoadsVector (addr : Word) (s t : State) : Prop :=
  ∃ hi lo, Reads [(addr, hi), (addr + 1, lo)] s t ∧ t.pc = joinBytes hi lo

/-- The binary coded decimal byte of a number below 100 (R128). -/
def bcd (n : Nat) : Byte := BitVec.ofNat 8 (n / 10 * 16 + n % 10)

/-- DAA: 06 for the low digit, 60 for the high one; C is never cleared, V is not constrained (R128,
log 5, log 10). -/
def DaaRule (a : Byte) (f : Ccr) (r : Byte) (g : Ccr) : Prop :=
  let low := 9 < a.toNat % 16 ∨ f.h = true
  let high := 9 < a.toNat / 16 ∨ f.c = true ∨ (9 ≤ a.toNat / 16 ∧ 9 < a.toNat % 16)
  (¬low → ¬high → r.toNat = a.toNat) ∧
  (low → ¬high → r.toNat = (a.toNat + 6) % 256) ∧
  (¬low → high → r.toNat = (a.toNat + 96) % 256) ∧
  (low → high → r.toNat = (a.toNat + 102) % 256) ∧
  (g.c = true ↔ high) ∧ g.h = f.h ∧ g.i = f.i ∧ SignAndZero r g

/-- A branch goes to the address after it plus its signed offset when a condition holds, on to the
address after it when not, and changes nothing else (R210). -/
def BranchesIff (i : Byte → Instr) (s : State) (cond : Prop) : Prop :=
  ∀ rel, ∃ t, exec (i rel) s = .next t ∧ OnlyPc s t ∧
    (cond → t.pc = s.pc + sext16 rel) ∧ (¬cond → t.pc = s.pc)

/-! ## Bus sequences (R54 to R67) -/

/-- A row of the cycle tables. -/
inductive Row where
  /-- VMA = 1, R/W = 1: a read. -/
  | read (addr : Word)
  /-- VMA = 1, R/W = 0: a write of this byte. -/
  | write (addr : Word) (v : Byte)
  /-- VMA = 0, R/W = 1, irrelevant data. -/
  | none (addr : Word)
  /-- VMA = 0, R/W = 0: the last cycle of TST. -/
  | noWrite (addr : Word)
  /-- VMA = 0, R/W = 1, with a byte shown: the last cycle of PSH. -/
  | shows (addr : Word) (v : Byte)

/-- A cycle is what a row says; a byte that DBE keeps off the data bus is not the MPU's. -/
def Row.Fits : Row → BusCycle → Prop
  | .read addr, c => c.vma = true ∧ c.write = false ∧ c.addr = addr ∧ c.data.isSome = true
  | .write addr v, c => c.vma = true ∧ c.write = true ∧ c.addr = addr ∧ c.data.isSome = true ∧
    (c.dbeLow = false → c.data = some v)
  | .none addr, c => c.vma = false ∧ c.write = false ∧ c.addr = addr ∧ c.data = .none
  | .noWrite addr, c => c.vma = false ∧ c.write = true ∧ c.addr = addr ∧ c.data = .none
  | .shows addr v, c => c.vma = false ∧ c.write = false ∧ c.addr = addr ∧ c.data = some v

/-- The cycles of the MPU between two states are these rows, in this order; a read of RAM or ROM shows the
byte that is there in that cycle (R44). -/
def CyclesFit (rows : List Row) (s t : State) : Prop :=
  ∃ new, t.bus.record = s.bus.record ++ new ∧ List.Forall₂ Row.Fits rows (mpuCycles new) ∧
    ∀ before c after, new = before ++ .cycle c :: after → c.vma = true → c.write = false →
      InMemory s c.addr → c.data = some ((replay s.bus.platform s.mem before).read c.addr)

/-- Where the bytes at PC are those of an instruction, fetching and executing it makes exactly these
cycles. -/
def MakesCycles (i : Instr) (s : State) (rows : List Row) : Prop :=
  s.fetchInstr.1 = i → ∃ t, exec i s.fetchInstr.2 = .next t ∧ CyclesFit rows s t

/-! ## Boundaries and runs -/

/-- At this boundary the clocks run, RESET and HALT are high, and RESET does not fall in the step. -/
def OpenBoundary (s : State) : Prop :=
  s.sample.resetAfter = none ∧ s.sample.lines.tsc = .low ∧ s.sample.lines.reset = .high ∧
  s.sample.lines.halt = .high

/-- What holds of the control state after every step: an inhibited IRQ goes with I = 0 outside the wait
state; RESET low goes with the reset state; while the clocks run, the reset state goes with RESET low
and the halted state with HALT low (R28, R29). -/
def ControlInv (s : State) : Prop :=
  (s.irqInhibit = true → s.ccr.i = false ∧ s.run ≠ .waiting) ∧
  (s.lines.reset = .low → s.run = .inReset) ∧
  (s.lines.tsc = .low → s.run = .inReset → s.lines.reset = .low) ∧
  (s.lines.tsc = .low → s.run = .halted → s.lines.halt = .low)

/-- The state with the bus as this boundary finds it: memory with what other masters wrote, the
environment's part in the cycles to come, an empty record. -/
def State.onBus (s : State) : State :=
  { s with bus := { s.bus with mem := s.afterDma, inputs := s.sample.cycles, record := [] } }

/-- The state in which the next instruction is fetched after a boundary without a request: registers as
before, the bus as the boundary finds it, the sample taken, the ITMP delay over, a masked IRQ of the
halted state dropped (R300). -/
def AtExecute (s t : State) : Prop :=
  t = { s.onBus with
    lines := s.sample.lines, env := s.env.tail
    irqLatchedInHalt := s.irqLatchedInHalt && !s.ccr.i, irqInhibit := false, run := .running }

/-- IRQ is low at this boundary, or was seen low while HALT was low (R274). -/
def IrqRequested (s : State) : Prop := s.sample.lines.irq = .low ∨ s.irqLatchedInHalt = true

/-- An NMI edge has been latched and not answered, or falls at this boundary (R27, R275). -/
def NmiRequested (s : State) : Prop :=
  s.nmiPending = true ∨ s.sample.nmiPulse = true ∨
    (s.lines.nmi = .high ∧ s.sample.lines.nmi = .low)

/-- So many steps, each from the state before it. -/
def steps : Nat → State → Result
  | 0, s => .next s
  | k + 1, s =>
    match step s with
    | .next t => steps k t
    | .fault e => .fault e
    | .refused r => .refused r

end Machine

end Sys2Proof
end

