-- ==== Sys2Proof/Certificates/Slice0/Obligations.lean ====
section
/-! DEFINITION. The statements for the provers: encoding, then instructions family by family, then the
bus, then the machine at instruction boundaries, then the invariants of every step. -/

section

open Sys2Proof Sys2Proof.Machine

/-! ## Encoding (file 30) -/

/-- Decoding the bytes of a well-formed instruction gives it back and leaves the bytes after it (R80,
R81, R93). -/
def Obligations.DecodeOfEncode : Prop :=
  ∀ (i : Instr) (rest : List Byte), i.wf = true → decode (encode i ++ rest) = .ok (i, rest)

/-- Bytes that decode are the encoding of what they decode to, which is well formed: every byte
sequence means one instruction at most (R80, R81, R93). -/
def Obligations.EncodeOfDecode : Prop :=
  ∀ (bytes : List Byte) (i : Instr) (rest : List Byte),
    decode bytes = .ok (i, rest) → i.wf = true ∧ encode i ++ rest = bytes

/-- One word of each family, written from the opcode lines of the instruction rules. -/
def Obligations.SpecWordsDecode : Prop :=
  decode [0x8B, 0x4B] = .ok (.addA (.imm 0x4B), []) ∧
  decode [0xD0, 0x40] = .ok (.subB (.mem (.dir 0x40)), []) ∧
  decode [0x7C, 0x01, 0x23] = .ok (.inc (.ext 0x0123), []) ∧
  decode [0x6F, 0x02] = .ok (.clr (.ind 0x02), []) ∧
  decode [0x97, 0x10] = .ok (.staA (.dir 0x10), []) ∧
  decode [0x36] = .ok (.pshA, []) ∧
  decode [0xBF, 0x30, 0x00] = .ok (.sts (.ext 0x3000), []) ∧
  decode [0xCE, 0x80, 0x00] = .ok (.ldx (.imm 0x8000), []) ∧
  decode [0x8D, 0x20] = .ok (.bsr 0x20, []) ∧
  decode [0x2E, 0x02] = .ok (.bgt 0x02, []) ∧
  decode [0xBD, 0x20, 0x00] = .ok (.jsr (.ext 0x2000), []) ∧
  decode [0x0E] = .ok (.cli, []) ∧
  decode [0x87] = .ok (.unassigned 0x87, [])

/-- The 59 unassigned opcodes are what decoding marks as unassigned, whatever bytes follow, and
executing one refuses. The refusal is the model's way to stop, by the spec's decision D1 (log 9). -/
def Obligations.UnassignedOpcodesRefuse : Prop :=
  unassignedOpcodes.length = 59 ∧ unassignedOpcodes.Nodup ∧
  (∀ op b1 b2 : Byte, isUnassigned op = true → decodeBytes op b1 b2 = .unassigned op) ∧
  (∀ op b1 b2 op' : Byte, isUnassigned op = false → decodeBytes op b1 b2 ≠ .unassigned op') ∧
  (∀ (op : Byte) (s : State),
    exec (.unassigned op) s = .refused (.unassignedOpcode op))

/-- Effective addresses and branch targets as numbers: direct reaches 0 to 255, indexed adds an unsigned
offset to X, extended is the two operand bytes, the high one first, relative adds a signed offset to the
address after the branch; all modulo 2^16. A memory operand is the byte there, where memory answers. An
immediate operand is the operand byte itself, or for CPX, LDS and LDX the two operand bytes, the high one
first (R85 to R89, R101, R102; the wrap and offset 80 are the spec's decisions D5 and D6, log 14, log 15). -/
def Obligations.EffectiveAddresses : Prop :=
  ∀ (s : State) (a b : Byte) (w : Word) (m : Mem),
    (Mem.ea s (.dir a)).toNat = a.toNat ∧
    (Mem.ea s (.ind a)).toNat = (s.x.toNat + a.toNat) % 65536 ∧
    (Mem.ea s (.ext w)).toNat = w.toNat ∧
    (∀ rest, decode (0xB6 :: a :: b :: rest) =
      .ok (.ldaA (.mem (.ext (BitVec.ofNat 16 (a.toNat * 256 + b.toNat)))), rest)) ∧
    ((branchTarget s a).toNat : Int) = (s.pc.toNat + a.toInt) % 65536 ∧
    (Src8.mem m).value s = m.value s ∧
    (ReadsMemory s (m.ea s) → m.value s = s.mem.read (m.ea s)) ∧
    (Src8.imm a).value s = a ∧ (Src16.imm w).value s = w ∧
    (∀ rest, decode (0x86 :: a :: rest) = .ok (.ldaA (.imm a), rest)) ∧
    (∀ c ∈ ([(0x8C, .cpx), (0x8E, .lds), (0xCE, .ldx)] : List (Byte × (Src16 → Instr))), ∀ rest,
      decode (c.1 :: a :: b :: rest) =
        .ok (c.2 (.imm (BitVec.ofNat 16 (a.toNat * 256 + b.toNat))), rest))

/-! ## Arithmetic (file 40) -/

/-- ADD, ADC and ABA: sum, H, N, Z, V, C; nothing else changes. -/
def Obligations.AdditionInstructions : Prop :=
  ∀ (s : State) (m : Src8),
    BinaryOnAcc (.addA m) .a (m.value s) (fun p q f => SumRule p q false f) s ∧
    BinaryOnAcc (.addB m) .b (m.value s) (fun p q f => SumRule p q false f) s ∧
    BinaryOnAcc (.adcA m) .a (m.value s) (fun p q f => SumRule p q f.c f) s ∧
    BinaryOnAcc (.adcB m) .b (m.value s) (fun p q f => SumRule p q f.c f) s ∧
    BinaryOnAcc .aba .a s.b (fun p q f => SumRule p q false f) s

/-- SUB, SBC and SBA: difference, N, Z, V and the borrow in C; CMP and CBA: the flags only. Nothing else
changes. -/
def Obligations.SubtractionAndCompare : Prop :=
  ∀ (s : State) (m : Src8),
    BinaryOnAcc (.subA m) .a (m.value s) (fun p q f => DifferenceRule p q false f) s ∧
    BinaryOnAcc (.subB m) .b (m.value s) (fun p q f => DifferenceRule p q false f) s ∧
    BinaryOnAcc (.sbcA m) .a (m.value s) (fun p q f => DifferenceRule p q f.c f) s ∧
    BinaryOnAcc (.sbcB m) .b (m.value s) (fun p q f => DifferenceRule p q f.c f) s ∧
    BinaryOnAcc .sba .a s.b (fun p q f => DifferenceRule p q false f) s ∧
    SetsFlags (.cmpA m) (DifferenceFlags s.a (m.value s) false) s ∧
    SetsFlags (.cmpB m) (DifferenceFlags s.b (m.value s) false) s ∧
    SetsFlags .cba (DifferenceFlags s.a s.b false) s

/-- NEG, INC and DEC on A, on B and on the byte at the effective address, and nothing else. The C flag of
NEG is the spec's reading of a printed note (log 11). -/
def Obligations.NegateIncrementDecrement : Prop :=
  ∀ (s : State) (m : IndExt),
    UnaryOnAcc .negA .a NegRule s ∧ UnaryOnAcc .negB .b NegRule s ∧
    UnaryOnMemory (.neg m) m NegRule s ∧
    UnaryOnAcc .incA .a IncRule s ∧ UnaryOnAcc .incB .b IncRule s ∧
    UnaryOnMemory (.inc m) m IncRule s ∧
    UnaryOnAcc .decA .a DecRule s ∧ UnaryOnAcc .decB .b DecRule s ∧
    UnaryOnMemory (.dec m) m DecRule s

/-- DAA: A, N, Z and C by the correction table, V open, nothing else changes but the count of free
values. The table is general knowledge that the spec adopts (log 10). -/
def Obligations.DecimalAdjust : Prop :=
  ∀ s : State, ∃ t, exec .daa s = .next t ∧ DaaRule s.a s.ccr t.a t.ccr ∧
    t = { s with a := t.a, ccr := t.ccr, bus := t.bus, draws := t.draws } ∧ Stores [] s t

/-- ADD, ADC or ABA of two BCD bytes and then DAA gives the two-digit BCD sum in A and the decimal carry
in C (R128; the table is the model's choice from general knowledge, log 10). -/
def Obligations.DecimalAdditionOfBcdBytes : Prop :=
  ∀ (s : State) (m : Src8) (p q : Nat), p < 100 → q < 100 → s.a = bcd p →
    (m.value s = bcd q →
      (∃ t u, exec (.addA m) s = .next t ∧ exec .daa t = .next u ∧
        u.a = bcd ((p + q) % 100) ∧ (u.ccr.c = true ↔ 99 < p + q)) ∧
      (∃ t u, exec (.adcA m) s = .next t ∧ exec .daa t = .next u ∧
        u.a = bcd ((p + q + s.ccr.c.toNat) % 100) ∧
        (u.ccr.c = true ↔ 99 < p + q + s.ccr.c.toNat))) ∧
    (s.b = bcd q →
      ∃ t u, exec .aba s = .next t ∧ exec .daa t = .next u ∧
        u.a = bcd ((p + q) % 100) ∧ (u.ccr.c = true ↔ 99 < p + q))

/-! ## Logic and shifts (file 41) -/

/-- AND, EOR and ORA: the bitwise result to the accumulator; BIT and TST: flags only. N and Z of the
result, V = 0, and C = 0 for TST; nothing else changes. -/
def Obligations.LogicAndTest : Prop :=
  ∀ (s : State) (m : Src8) (k : IndExt),
    BinaryOnAcc (.andA m) .a (m.value s) (fun p q f r g => r = p &&& q ∧ LogicFlagsRule r f g) s ∧
    BinaryOnAcc (.andB m) .b (m.value s) (fun p q f r g => r = p &&& q ∧ LogicFlagsRule r f g) s ∧
    BinaryOnAcc (.eorA m) .a (m.value s) (fun p q f r g => r = p ^^^ q ∧ LogicFlagsRule r f g) s ∧
    BinaryOnAcc (.eorB m) .b (m.value s) (fun p q f r g => r = p ^^^ q ∧ LogicFlagsRule r f g) s ∧
    BinaryOnAcc (.oraA m) .a (m.value s) (fun p q f r g => r = p ||| q ∧ LogicFlagsRule r f g) s ∧
    BinaryOnAcc (.oraB m) .b (m.value s) (fun p q f r g => r = p ||| q ∧ LogicFlagsRule r f g) s ∧
    SetsFlags (.bitA m) (LogicFlagsRule (s.a &&& m.value s)) s ∧
    SetsFlags (.bitB m) (LogicFlagsRule (s.b &&& m.value s)) s ∧
    SetsFlags .tstA (TestFlagsRule s.a) s ∧
    SetsFlags .tstB (TestFlagsRule s.b) s ∧
    SetsFlags (.tst k) (TestFlagsRule (k.toMem.value s)) s

/-- COM and CLR on A, on B and on the byte at the effective address. -/
def Obligations.ComplementAndClear : Prop :=
  ∀ (s : State) (m : IndExt),
    UnaryOnAcc .comA .a ComRule s ∧ UnaryOnAcc .comB .b ComRule s ∧
    UnaryOnMemory (.com m) m ComRule s ∧
    UnaryOnAcc .clrA .a ClrRule s ∧ UnaryOnAcc .clrB .b ClrRule s ∧
    UnaryOnMemory (.clr m) m ClrRule s

/-- ASL, LSR, ASR, ROL and ROR on A, on B and on memory. That ASR keeps bit 7 and that the rotates turn
nine bits through C is general knowledge that the spec adopts (log 12). -/
def Obligations.ShiftAndRotate : Prop :=
  ∀ (s : State) (m : IndExt),
    UnaryOnAcc .aslA .a AslRule s ∧ UnaryOnAcc .aslB .b AslRule s ∧
    UnaryOnMemory (.asl m) m AslRule s ∧
    UnaryOnAcc .lsrA .a LsrRule s ∧ UnaryOnAcc .lsrB .b LsrRule s ∧
    UnaryOnMemory (.lsr m) m LsrRule s ∧
    UnaryOnAcc .asrA .a AsrRule s ∧ UnaryOnAcc .asrB .b AsrRule s ∧
    UnaryOnMemory (.asr m) m AsrRule s ∧
    UnaryOnAcc .rolA .a RolRule s ∧ UnaryOnAcc .rolB .b RolRule s ∧
    UnaryOnMemory (.rol m) m RolRule s ∧
    UnaryOnAcc .rorA .a RorRule s ∧ UnaryOnAcc .rorB .b RorRule s ∧
    UnaryOnMemory (.ror m) m RorRule s

/-! ## Load, store, transfer, stack (file 42) -/

/-- LDA: the operand to the accumulator. STA: the accumulator to the one byte at the effective address.
N and Z of the byte moved, V = 0; nothing else changes. -/
def Obligations.LoadAndStoreAccumulator : Prop :=
  ∀ (s : State) (q : Src8) (m : Mem),
    BinaryOnAcc (.ldaA q) .a (q.value s) (fun _ v f r g => r = v ∧ LogicFlagsRule r f g) s ∧
    BinaryOnAcc (.ldaB q) .b (q.value s) (fun _ v f r g => r = v ∧ LogicFlagsRule r f g) s ∧
    (∃ t, exec (.staA m) s = .next t ∧ LogicFlagsRule s.a s.ccr t.ccr ∧
      OnlyBytes [(m.ea s, s.a)] s t) ∧
    (∃ t, exec (.staB m) s = .next t ∧ LogicFlagsRule s.b s.ccr t.ccr ∧
      OnlyBytes [(m.ea s, s.b)] s t)

/-- TAB and TBA (R172, R173): one byte, PC + 1 by the fetch, two read cycles, the other accumulator copied,
N and Z of it, V = 0, all else kept. -/
def Obligations.TransferBetweenAccumulators : Prop :=
  decode [0x16] = .ok (.tab, []) ∧ decode [0x17] = .ok (.tba, []) ∧
  ∀ s : State,
    (s.fetchInstr.1 = .tab ∨ s.fetchInstr.1 = .tba → s.fetchInstr.2.pc = s.pc + 1) ∧
    MakesCycles .tab s [.read s.pc, .read (s.pc + 1)] ∧
    MakesCycles .tba s [.read s.pc, .read (s.pc + 1)] ∧
    UnaryOnAcc .tab .b (fun _ f r g => r = s.a ∧ LogicFlagsRule s.a f g) s ∧
    UnaryOnAcc .tba .a (fun _ f r g => r = s.b ∧ LogicFlagsRule s.b f g) s

/-- PSH stores at SP and then decrements SP; PUL increments SP and then loads from it; no flag changes
and no other byte. Where SP points at RAM, PSH then PUL restores SP and the accumulator, and PSH A then
PUL B copies A to B (R14, R174 to R176; SP wraps by decision D5, log 14). -/
def Obligations.PushAndPull : Prop :=
  ∀ (s : State) (r : Acc),
    (∃ t, exec (match r with | .a => .pshA | .b => .pshB) s = .next t ∧
      t = { s with sp := s.sp - 1, bus := t.bus } ∧ Stores [(s.sp, s.acc r)] s t) ∧
    (∃ t v, exec (match r with | .a => .pulA | .b => .pulB) s = .next t ∧
      Reads [(s.sp + 1, v)] s t ∧ t.acc r = v ∧ t.sp = s.sp + 1 ∧ Stores [] s t ∧
      t = (match r with
        | .a => { s with a := t.a, sp := t.sp, bus := t.bus }
        | .b => { s with b := t.b, sp := t.sp, bus := t.bus })) ∧
    (StoresMemory s s.sp →
      (∃ t u, exec (match r with | .a => .pshA | .b => .pshB) s = .next t ∧
        exec (match r with | .a => .pulA | .b => .pulB) t = .next u ∧ u.acc r = s.acc r ∧
        u.sp = s.sp ∧ u.ccr = s.ccr) ∧
      (∃ t u, exec .pshA s = .next t ∧ exec .pulB t = .next u ∧ u.b = s.a ∧ u.a = s.a ∧
        u.sp = s.sp ∧ u.ccr = s.ccr))

/-! ## Index register and stack pointer (file 43) -/

/-- CPX: Z over all 16 bits; N and V from the high bytes, with the low byte's borrow only if the open
parameter says so; H, I and C kept; nothing else changes (R190; the flags are the spec's
decision D9, log 7, log 13). -/
def Obligations.CompareIndexRegister : Prop :=
  ∀ (s : State) (m : Src16), ∃ t, exec (.cpx m) s = .next t ∧ OnlyFlags s t ∧
    t.ccr.h = s.ccr.h ∧ t.ccr.i = s.ccr.i ∧ t.ccr.c = s.ccr.c ∧
    (t.ccr.z = true ↔ s.x = m.value s) ∧
    (∀ bin : Bool,
      (bin = true ↔ ((lo8 s.x).toNat < (lo8 (m.value s)).toNat ∧ Config.cpxMsBorrow = true)) →
      (t.ccr.n = true ↔
        128 ≤ ((hi8 s.x).toNat + 512 - (hi8 (m.value s)).toNat - bin.toNat) % 256) ∧
      (t.ccr.v = true ↔
        (hi8 s.x).toInt - (hi8 (m.value s)).toInt - bin.toNat < -128 ∨
        127 < (hi8 s.x).toInt - (hi8 (m.value s)).toInt - bin.toNat))

/-- LDX and LDS: the two operand bytes, high byte first, to X or SP; an indexed LDX uses the old X. STX
and STS: the high byte at the effective address, the low byte after it, no other byte. N is bit 15, Z
over 16 bits, V = 0 (R195 to R198; Z, V, C, H, I by decision D9, log 13). -/
def Obligations.LoadAndStoreSixteenBit : Prop :=
  ∀ (s : State) (q : Src16) (m : Mem),
    (∃ t, exec (.ldx q) s = .next t ∧ t.x = q.value s ∧ WordFlagsRule (q.value s) s.ccr t.ccr ∧
      OnlyX s t) ∧
    (∃ t, exec (.lds q) s = .next t ∧ t.sp = q.value s ∧ WordFlagsRule (q.value s) s.ccr t.ccr ∧
      OnlySp s t) ∧
    (ReadsMemory s (m.ea s) → ReadsMemory s (m.ea s + 1) →
      ((Src16.mem m).value s).toNat =
        (s.mem.read (m.ea s)).toNat * 256 + (s.mem.read (m.ea s + 1)).toNat) ∧
    (∃ t, exec (.stx m) s = .next t ∧ WordFlagsRule s.x s.ccr t.ccr ∧
      OnlyBytes [(m.ea s, hi8 s.x), (m.ea s + 1, lo8 s.x)] s t) ∧
    (∃ t, exec (.sts m) s = .next t ∧ WordFlagsRule s.sp s.ccr t.ccr ∧
      OnlyBytes [(m.ea s, hi8 s.sp), (m.ea s + 1, lo8 s.sp)] s t)

/-- INX and DEX change X and Z only; INS, DES, TXS and TSX change no flag; TSX gives SP + 1 and TXS
X - 1; so TSX then TXS restores SP (R191 to R194, R199, R200; flags by decision D9, log 13). -/
def Obligations.IndexAndStackPointerSteps : Prop :=
  ∀ s : State,
    (∃ t, exec .inx s = .next t ∧ t.x.toNat = (s.x.toNat + 1) % 65536 ∧
      t.ccr = { s.ccr with z := decide (t.x.toNat = 0) } ∧ OnlyX s t) ∧
    (∃ t, exec .dex s = .next t ∧ t.x.toNat = (s.x.toNat + 65535) % 65536 ∧
      t.ccr = { s.ccr with z := decide (t.x.toNat = 0) } ∧ OnlyX s t) ∧
    (∃ t, exec .ins s = .next t ∧ t.sp.toNat = (s.sp.toNat + 1) % 65536 ∧ t.ccr = s.ccr ∧
      OnlySp s t) ∧
    (∃ t, exec .des s = .next t ∧ t.sp.toNat = (s.sp.toNat + 65535) % 65536 ∧ t.ccr = s.ccr ∧
      OnlySp s t) ∧
    (∃ t, exec .txs s = .next t ∧ t.sp.toNat = (s.x.toNat + 65535) % 65536 ∧ t.ccr = s.ccr ∧
      OnlySp s t) ∧
    (∃ t u, exec .tsx s = .next t ∧ t.x.toNat = (s.sp.toNat + 1) % 65536 ∧ t.ccr = s.ccr ∧
      OnlyX s t ∧ exec .txs t = .next u ∧ u.sp = s.sp)

/-! ## Jumps, branches, subroutines, interrupts by program (file 44) -/

/-- The fifteen branches: each tests the flags of its rule; taken or not, nothing but PC changes (R210
to R224). -/
def Obligations.BranchConditions : Prop :=
  ∀ s : State,
    BranchesIff .bra s True ∧
    BranchesIff .bcc s (s.ccr.c = false) ∧ BranchesIff .bcs s (s.ccr.c = true) ∧
    BranchesIff .beq s (s.ccr.z = true) ∧ BranchesIff .bne s (s.ccr.z = false) ∧
    BranchesIff .bmi s (s.ccr.n = true) ∧ BranchesIff .bpl s (s.ccr.n = false) ∧
    BranchesIff .bvs s (s.ccr.v = true) ∧ BranchesIff .bvc s (s.ccr.v = false) ∧
    BranchesIff .bhi s (s.ccr.c = false ∧ s.ccr.z = false) ∧
    BranchesIff .bls s (s.ccr.c = true ∨ s.ccr.z = true) ∧
    BranchesIff .bge s (s.ccr.n = s.ccr.v) ∧ BranchesIff .blt s (s.ccr.n ≠ s.ccr.v) ∧
    BranchesIff .bgt s (s.ccr.z = false ∧ s.ccr.n = s.ccr.v) ∧
    BranchesIff .ble s (s.ccr.z = true ∨ s.ccr.n ≠ s.ccr.v)

/-- After CMP, SUB, SBA or CBA the branches give the unsigned and the signed order of accumulator and
operand (R116, R211 to R219). -/
def Obligations.CompareThenBranchOrders : Prop :=
  ∀ (s : State) (m : Src8), ∀ c ∈ ([(.cmpA m, s.a, m.value s), (.cmpB m, s.b, m.value s),
      (.subA m, s.a, m.value s), (.subB m, s.b, m.value s), (.sba, s.a, s.b), (.cba, s.a, s.b)] :
      List (Instr × Byte × Byte)),
    ∃ t, exec c.1 s = .next t ∧
      BranchesIff .beq t (c.2.1 = c.2.2) ∧ BranchesIff .bne t (c.2.1 ≠ c.2.2) ∧
      BranchesIff .bcc t (c.2.2.toNat ≤ c.2.1.toNat) ∧ BranchesIff .bcs t (c.2.1.toNat < c.2.2.toNat) ∧
      BranchesIff .bhi t (c.2.2.toNat < c.2.1.toNat) ∧ BranchesIff .bls t (c.2.1.toNat ≤ c.2.2.toNat) ∧
      BranchesIff .bge t (c.2.2.toInt ≤ c.2.1.toInt) ∧ BranchesIff .blt t (c.2.1.toInt < c.2.2.toInt) ∧
      BranchesIff .bgt t (c.2.2.toInt < c.2.1.toInt) ∧ BranchesIff .ble t (c.2.1.toInt ≤ c.2.2.toInt)

/-- JMP sets PC to the effective address itself, RTS to the two bytes on the stack; no flag changes and
nothing is stored. -/
def Obligations.JumpAndReturn : Prop :=
  ∀ (s : State) (m : IndExt),
    (∃ t, exec (.jmp m) s = .next t ∧ OnlyPc s t ∧ t.pc = m.toMem.ea s) ∧
    (∃ t hi lo, exec .rts s = .next t ∧ Reads [(s.sp + 1, hi), (s.sp + 2, lo)] s t ∧
      t.pc.toNat = hi.toNat * 256 + lo.toNat ∧
      t = { s with sp := s.sp + 2, pc := t.pc, bus := t.bus } ∧ Stores [] s t)

/-- BSR and JSR push the address of the next instruction, low byte first, and go to their target; no
flag and no other byte changes. Where the pushes of JSR extended hit its own third byte, only the high
byte of the target is known: the low byte is the model's free value (R225, R227, D14, log 6). -/
def Obligations.SubroutineCalls : Prop :=
  ∀ s : State,
    (∀ rel, ∃ t, exec (.bsr rel) s = .next t ∧ t.pc = s.pc + sext16 rel ∧
      t = { s with sp := s.sp - 2, pc := t.pc, bus := t.bus } ∧
      Stores [(s.sp, lo8 s.pc), (s.sp - 1, hi8 s.pc)] s t) ∧
    (∀ off, ∃ t, exec (.jsr (.ind off)) s = .next t ∧ t.pc = s.x + zext16 off ∧
      t = { s with sp := s.sp - 2, pc := t.pc, bus := t.bus } ∧
      Stores [(s.sp, lo8 s.pc), (s.sp - 1, hi8 s.pc)] s t) ∧
    (∀ addr, ∃ t, exec (.jsr (.ext addr)) s = .next t ∧
      (if s.sp = s.pc - 1 ∨ s.sp - 1 = s.pc - 1 then hi8 t.pc = hi8 addr
        else t.pc = addr ∧ t.draws = s.draws) ∧
      t = { s with sp := s.sp - 2, pc := t.pc, bus := t.bus, draws := t.draws } ∧
      Stores [(s.sp, lo8 s.pc), (s.sp - 1, hi8 s.pc)] s t)

/-- A BSR or JSR with its stack in RAM, and then an RTS wherever it stands: back at the instruction after
the call, with SP and all flags as they were. -/
def Obligations.ReturnUndoesCall : Prop :=
  ∀ (s : State) (c : Instr) (p : Word), (∃ rel, c = .bsr rel) ∨ (∃ m, c = .jsr m) →
    StoresMemory s s.sp → StoresMemory s (s.sp - 1) →
    ∃ t u, exec c s = .next t ∧ exec .rts { t with pc := p } = .next u ∧ u.pc = s.pc ∧ u.sp = s.sp ∧
      u.ccr = s.ccr ∧ Stores [] { t with pc := p } u

/-- SWI: the registers stacked with the old I, I set, PC from FFFA and FFFB as they read after the
stacking, all else kept (R231, R276, R277, R280; SP wraps by decision D5, log 14). -/
def Obligations.SoftwareInterrupt : Prop :=
  ∀ s : State, ∃ t, exec .swi s = .next t ∧ StacksRegisters s.pc s t ∧
    t.ccr = { s.ccr with i := true } ∧ LoadsVector 0xFFFA s t ∧
    t = { s with sp := t.sp, ccr := t.ccr, pc := t.pc, bus := t.bus }

/-- WAI: the registers stacked, I kept, the run state Waiting, PC after the opcode (R232, R276). That
its ninth cycle writes the condition codes is the spec's reading (log 23). -/
def Obligations.WaitInstruction : Prop :=
  ∀ s : State, ∃ t, exec .wai s = .next t ∧ StacksRegisters s.pc s t ∧ t.run = .waiting ∧
    t = { s with sp := t.sp, run := t.run, bus := t.bus }

/-- RTI: the condition codes (bits 7 and 6 dropped), B, A, X and PC from the stack, SP up by seven,
nothing stored. A cleared I delays IRQ only if the open parameter says so (R230, R281, log 8). -/
def Obligations.ReturnFromInterrupt : Prop :=
  ∀ s : State, ∃ t f b a xh xl ph pl, exec .rti s = .next t ∧
    Reads [(s.sp + 1, f), (s.sp + 2, b), (s.sp + 3, a), (s.sp + 4, xh), (s.sp + 5, xl), (s.sp + 6, ph),
      (s.sp + 7, pl)] s t ∧
    t.ccr.toByte = f ||| 0xC0 ∧ t.b = b ∧ t.a = a ∧ t.x = joinBytes xh xl ∧ t.pc = joinBytes ph pl ∧
    t.sp = s.sp + 7 ∧
    (t.irqInhibit = true ↔ s.irqInhibit = true ∨
      (s.ccr.i = true ∧ t.ccr.i = false ∧ Config.rtiIClearDelayed = true)) ∧
    t = { s with a := t.a, b := t.b, x := t.x, sp := t.sp, pc := t.pc, ccr := t.ccr
                 irqInhibit := t.irqInhibit, bus := t.bus } ∧
    Stores [] s t

/-- One RTI undoes one SWI whose stack is in RAM: wherever the handler ends, A, B, X, SP and all flags are
as before and PC is after the SWI (R284, R277). -/
def Obligations.ReturnUndoesSoftwareInterrupt : Prop :=
  ∀ (s : State) (p : Word), (∀ w ∈ stackedBytes s.pc s, StoresMemory s w.1) →
    ∃ t u, exec .swi s = .next t ∧ exec .rti { t with pc := p } = .next u ∧
      u.a = s.a ∧ u.b = s.b ∧ u.x = s.x ∧ u.sp = s.sp ∧ u.ccr = s.ccr ∧ u.pc = s.pc

/-! ## Condition code register (file 45) -/

/-- NOP (R228), CLC, CLV, SEC, SEV (R250, R252, R253, R255): opcode, PC + 1 by the fetch, two read cycles,
the one flag or none, and nothing else. -/
def Obligations.NoOperationAndFlagInstructions : Prop :=
  ∀ s : State, ∀ c ∈ ([(.nop, 0x01, s.ccr), (.clc, 0x0C, { s.ccr with c := false }),
      (.sec, 0x0D, { s.ccr with c := true }), (.clv, 0x0A, { s.ccr with v := false }),
      (.sev, 0x0B, { s.ccr with v := true })] :
      List (Instr × Byte × Ccr)),
    decode [c.2.1] = .ok (c.1, []) ∧
    (s.fetchInstr.1 = c.1 → s.fetchInstr.2.pc = s.pc + 1) ∧
    MakesCycles c.1 s [.read s.pc, .read (s.pc + 1)] ∧
    ∃ t, exec c.1 s = .next t ∧ t = { s with ccr := c.2.2, bus := t.bus } ∧ Stores [] s t

/-- TPA (R257): opcode 07, PC + 1 by the fetch, two read cycles, A becomes 1 1 H I N Z V C, nothing else
changes; a TAP right after it changes no flag and delays nothing. -/
def Obligations.TransferConditionCodesToA : Prop :=
  decode [0x07] = .ok (.tpa, []) ∧
  ∀ s : State, (s.fetchInstr.1 = .tpa → s.fetchInstr.2.pc = s.pc + 1) ∧
    MakesCycles .tpa s [.read s.pc, .read (s.pc + 1)] ∧
    ∃ t u, exec .tpa s = .next t ∧ t = { s with a := t.a, bus := t.bus } ∧ Stores [] s t ∧
      t.a.toNat = 192 + 32 * s.ccr.h.toNat + 16 * s.ccr.i.toNat + 8 * s.ccr.n.toNat +
        4 * s.ccr.z.toNat + 2 * s.ccr.v.toNat + s.ccr.c.toNat ∧
      exec .tap t = .next u ∧ u.ccr = s.ccr ∧ u.irqInhibit = s.irqInhibit

/-- CLI, SEI and TAP: the flags, and the one-boundary delay of IRQ exactly when I goes from 1 to 0 (R251,
R254, R256; the delay is the spec's decision D8, log 16). -/
def Obligations.InterruptMaskInstructions : Prop :=
  ∀ s : State,
    (∃ t, exec .sei s = .next t ∧ t = { s with ccr := { s.ccr with i := true }, bus := t.bus } ∧
      Stores [] s t) ∧
    (∃ t, exec .cli s = .next t ∧ t.ccr = { s.ccr with i := false } ∧
      (t.irqInhibit = true ↔ s.irqInhibit = true ∨ s.ccr.i = true) ∧
      t = { s with ccr := t.ccr, irqInhibit := t.irqInhibit, bus := t.bus } ∧ Stores [] s t) ∧
    (∃ t, exec .tap s = .next t ∧ t.ccr.toByte = s.a ||| 0xC0 ∧
      (t.irqInhibit = true ↔ s.irqInhibit = true ∨ (s.ccr.i = true ∧ t.ccr.i = false)) ∧
      t = { s with ccr := t.ccr, irqInhibit := t.irqInhibit, bus := t.bus } ∧ Stores [] s t)

/-! ## The bus (file 20, section 5) -/

/-- The cycles of immediate and direct mode, reads and writes (R54, R55, R56). -/
def Obligations.ImmediateAndDirectCycles : Prop :=
  ∀ (s : State) (v : Byte) (w : Word),
    (∀ f ∈ ([.adcA, .eorA, .addA, .ldaA, .andA, .oraA, .bitA, .sbcA, .cmpA, .subA, .adcB, .eorB, .addB,
        .ldaB, .andB, .oraB, .bitB, .sbcB, .cmpB, .subB] : List (Src8 → Instr)),
      MakesCycles (f (.imm v)) s [.read s.pc, .read (s.pc + 1)] ∧
      MakesCycles (f (.mem (.dir v))) s
        [.read s.pc, .read (s.pc + 1), .read (zext16 v)]) ∧
    (∀ f ∈ ([.cpx, .lds, .ldx] : List (Src16 → Instr)),
      MakesCycles (f (.imm w)) s [.read s.pc, .read (s.pc + 1), .read (s.pc + 2)] ∧
      MakesCycles (f (.mem (.dir v))) s
        [.read s.pc, .read (s.pc + 1), .read (zext16 v), .read (zext16 v + 1)]) ∧
    (∀ c ∈ ([(.staA, s.a), (.staB, s.b)] : List ((Mem → Instr) × Byte)),
      MakesCycles (c.1 (.dir v)) s
        [.read s.pc, .read (s.pc + 1), .none (zext16 v), .write (zext16 v) c.2]) ∧
    (∀ c ∈ ([(.sts, s.sp), (.stx, s.x)] : List ((Mem → Instr) × Word)),
      MakesCycles (c.1 (.dir v)) s
        [.read s.pc, .read (s.pc + 1), .none (zext16 v), .write (zext16 v) (hi8 c.2),
          .write (zext16 v + 1) (lo8 c.2)])

/-- The cycles of indexed mode (R57, R58, R59, R60). The new byte of a read-modify-write is the result of
its rule (R118 to R120, R144, R145, R147 to R151) on the byte read; that of ASR, ROL and ROR is general
knowledge that the spec adopts (log 12). -/
def Obligations.IndexedCycles : Prop :=
  ∀ (s : State) (o : Byte),
    let start (rows : List Row) : List Row := .read s.pc :: .read (s.pc + 1) :: .none s.x ::
      .none (joinBytes (hi8 s.x) (lo8 s.x + o)) :: rows
    let ea := s.x + zext16 o
    MakesCycles (.jmp (.ind o)) s (start []) ∧
    (∀ f ∈ ([.adcA, .eorA, .addA, .ldaA, .andA, .oraA, .bitA, .sbcA, .cmpA, .subA, .adcB, .eorB, .addB,
        .ldaB, .andB, .oraB, .bitB, .sbcB, .cmpB, .subB] : List (Src8 → Instr)),
      MakesCycles (f (.mem (.ind o))) s (start [.read ea])) ∧
    (∀ f ∈ ([.cpx, .lds, .ldx] : List (Src16 → Instr)),
      MakesCycles (f (.mem (.ind o))) s (start [.read ea, .read (ea + 1)])) ∧
    (∀ c ∈ ([(.staA, s.a), (.staB, s.b)] : List ((Mem → Instr) × Byte)),
      MakesCycles (c.1 (.ind o)) s (start [.none ea, .write ea c.2])) ∧
    (∀ c ∈ ([(.sts, s.sp), (.stx, s.x)] : List ((Mem → Instr) × Word)),
      MakesCycles (c.1 (.ind o)) s
        (start [.none ea, .write ea (hi8 c.2), .write (ea + 1) (lo8 c.2)])) ∧
    MakesCycles (.jsr (.ind o)) s
      [.read s.pc, .read (s.pc + 1), .none s.x, .write s.sp (lo8 (s.pc + 2)),
        .write (s.sp - 1) (hi8 (s.pc + 2)), .none (s.sp - 2), .none s.x,
        .none (joinBytes (hi8 s.x) (lo8 s.x + o))] ∧
    (∀ c ∈ ([(.asl, asl8), (.lsr, lsr8), (.asr, asr8), (.neg, neg8), (.clr, clr8), (.rol, rol8),
        (.com, com8), (.ror, ror8), (.dec, dec8), (.inc, inc8)] :
        List ((IndExt → Instr) × (Byte → Ccr → Byte × Ccr))),
      MakesCycles (c.1 (.ind o)) s (start [.read ea, .none ea,
        .write ea (c.2 ((Mem.ind o).value s.fetchInstr.2) s.ccr).1])) ∧
    MakesCycles (.tst (.ind o)) s
      (start [.read ea, .none ea, .noWrite ea])

/-- The cycles of extended mode (R61, R62, R63, R64). JSR reads the subroutine's first byte before the
pushes and its own third byte again after them. The new byte of a read-modify-write is the result of its
rule (R118 to R120, R144, R145, R147 to R151) on the byte read; that of ASR, ROL and ROR is general knowledge
that the spec adopts (log 12). -/
def Obligations.ExtendedCycles : Prop :=
  ∀ (s : State) (ea : Word),
    let start (rows : List Row) : List Row :=
      .read s.pc :: .read (s.pc + 1) :: .read (s.pc + 2) :: rows
    MakesCycles (.jmp (.ext ea)) s (start []) ∧
    (∀ f ∈ ([.adcA, .eorA, .addA, .ldaA, .andA, .oraA, .bitA, .sbcA, .cmpA, .subA, .adcB, .eorB, .addB,
        .ldaB, .andB, .oraB, .bitB, .sbcB, .cmpB, .subB] : List (Src8 → Instr)),
      MakesCycles (f (.mem (.ext ea))) s (start [.read ea])) ∧
    (∀ f ∈ ([.cpx, .lds, .ldx] : List (Src16 → Instr)),
      MakesCycles (f (.mem (.ext ea))) s (start [.read ea, .read (ea + 1)])) ∧
    MakesCycles (.jsr (.ext ea)) s (start
      [.read ea, .write s.sp (lo8 (s.pc + 3)), .write (s.sp - 1) (hi8 (s.pc + 3)),
        .none (s.sp - 2), .none (s.pc + 2), .read (s.pc + 2)]) ∧
    (∀ c ∈ ([(.staA, s.a), (.staB, s.b)] : List ((Mem → Instr) × Byte)),
      MakesCycles (c.1 (.ext ea)) s (start [.none ea, .write ea c.2])) ∧
    (∀ c ∈ ([(.sts, s.sp), (.stx, s.x)] : List ((Mem → Instr) × Word)),
      MakesCycles (c.1 (.ext ea)) s
        (start [.none ea, .write ea (hi8 c.2), .write (ea + 1) (lo8 c.2)])) ∧
    (∀ c ∈ ([(.asl, asl8), (.lsr, lsr8), (.asr, asr8), (.neg, neg8), (.clr, clr8), (.rol, rol8),
        (.com, com8), (.ror, ror8), (.dec, dec8), (.inc, inc8)] :
        List ((IndExt → Instr) × (Byte → Ccr → Byte × Ccr))),
      MakesCycles (c.1 (.ext ea)) s (start [.read ea, .none ea,
        .write ea (c.2 ((Mem.ext ea).value s.fetchInstr.2) s.ccr).1])) ∧
    MakesCycles (.tst (.ext ea)) s
      (start [.read ea, .none ea, .noWrite ea])

/-- The cycles of the one-byte instructions that only work in registers or pull and push one item
(R65). R65 does not speak of DBE: that PSH's fourth cycle, with VMA = 0, shows the accumulator with DBE low
too is the model's choice (log 27). -/
def Obligations.InherentCycles : Prop :=
  ∀ s : State,
    let start (rows : List Row) : List Row := .read s.pc :: .read (s.pc + 1) :: rows
    (∀ i ∈ ([.aba, .daa, .sec, .sei, .sev, .cba, .tab, .clc, .tap, .cli, .nop, .tba, .tpa, .clv, .sba,
        .aslA, .decA, .asrA, .incA, .lsrA, .negA, .clrA, .rolA, .rorA, .tstA, .comA,
        .aslB, .decB, .asrB, .incB, .lsrB, .negB, .clrB, .rolB, .rorB, .tstB, .comB] : List Instr),
      MakesCycles i s (start [])) ∧
    MakesCycles .des s (start [.none s.sp, .none (s.sp - 1)]) ∧
    MakesCycles .ins s (start [.none s.sp, .none (s.sp + 1)]) ∧
    MakesCycles .dex s (start [.none s.x, .none (s.x - 1)]) ∧
    MakesCycles .inx s (start [.none s.x, .none (s.x + 1)]) ∧
    MakesCycles .tsx s (start [.none s.sp, .none (s.sp + 1)]) ∧
    MakesCycles .txs s (start [.none s.x, .none (s.x - 1)]) ∧
    (∀ c ∈ ([(.pshA, s.a), (.pshB, s.b)] : List (Instr × Byte)),
      MakesCycles c.1 s (start [.write s.sp c.2,
        .shows (s.sp - 1) c.2])) ∧
    (∀ i ∈ ([.pulA, .pulB] : List Instr),
      MakesCycles i s (start [.none s.sp, .read (s.sp + 1)])) ∧
    MakesCycles .rts s
      (start [.none s.sp, .read (s.sp + 1), .read (s.sp + 2)])

/-- The cycles of WAI, RTI and SWI (R66) and of the branches and BSR (R67). WAI's ninth cycle is a write
by the spec's reading (log 23). -/
def Obligations.InterruptAndBranchCycles : Prop :=
  ∀ (s : State) (rel : Byte),
    let start (rows : List Row) : List Row := .read s.pc :: .read (s.pc + 1) :: rows
    let stacking (rows : List Row) : List Row :=
      .write s.sp (lo8 (s.pc + 1)) :: .write (s.sp - 1) (hi8 (s.pc + 1)) ::
      .write (s.sp - 2) (lo8 s.x) :: .write (s.sp - 3) (hi8 s.x) ::
      .write (s.sp - 4) s.a :: .write (s.sp - 5) s.b ::
      .write (s.sp - 6) s.ccr.toByte :: rows
    MakesCycles .wai s (start (stacking [])) ∧
    MakesCycles .rti s (start [.none s.sp, .read (s.sp + 1), .read (s.sp + 2),
      .read (s.sp + 3), .read (s.sp + 4), .read (s.sp + 5), .read (s.sp + 6),
      .read (s.sp + 7)]) ∧
    MakesCycles .swi s (start (stacking [.none (s.sp - 7), .read 0xFFFA, .read 0xFFFB])) ∧
    (∀ f ∈ ([.bcc, .bhi, .bne, .bcs, .ble, .bpl, .beq, .bls, .bra, .bge, .blt, .bvc, .bgt, .bmi, .bvs] :
        List (Byte → Instr)),
      MakesCycles (f rel) s (start [.none (s.pc + 2), .none (s.pc + 2 + sext16 rel)])) ∧
    MakesCycles (.bsr rel) s (start [.none (s.pc + 2), .write s.sp (lo8 (s.pc + 2)),
      .write (s.sp - 1) (hi8 (s.pc + 2)), .none (s.sp - 2), .none (s.pc + 2),
      .none (s.pc + 2 + sext16 rel)])

/-- One access at the level of the bus. A read gets the byte in memory where the platform has RAM or ROM,
and what the environment answers where it has a device; a write puts the byte into RAM and changes nothing
anywhere else, and with DBE low it is the byte that something else drives. What other masters write under
TSC lands before the cycle, and an access changes nothing but the bus (R44, R53, R73, R74; that writes to
ROM or to no memory are lost, and the form of the platform, are the model's choice, log 31). -/
def Obligations.BusAccessByKind : Prop :=
  ∀ (s : State) (addr : Word) (v : Byte),
    let c := s.bus.inputs.headD CycleInput.quiet
    let m := s.mem.storeAll s.bus.platform c.others
    s.readCycle addr = { s with bus := (s.readCycle addr).bus } ∧ (s.readCycle addr).mem = m ∧
    (InMemory s addr → s.readData addr = m.read addr) ∧
    (kindAt s.bus.platform addr = .device → ∀ w, c.answer = some w → s.readData addr = w) ∧
    s.writeByte addr v = { s with bus := (s.writeByte addr v).bus } ∧
    (kindAt s.bus.platform addr ≠ .ram → (s.writeByte addr v).mem = m) ∧
    (kindAt s.bus.platform addr = .ram → ∀ other : Word, (s.writeByte addr v).mem.read other =
      if other = addr then c.dbe.getD v else m.read other) ∧
    (∀ other : Word, Untouched s.bus.inputs other → m.read other = s.mem.read other)

/-- Every assigned instruction takes the number of cycles of the table in R340, whatever its data: those
that fetch its bytes, and those of its execution. -/
def Obligations.CycleCounts : Prop :=
  ∀ (i : Instr) (s : State), (∀ op, i ≠ .unassigned op) →
    ∃ t new, exec i s = .next t ∧ t.bus.record = s.bus.record ++ new ∧
      i.length + (mpuCycles new).length = i.cycles

/-- The accesses of all masters are in one order: memory after an instruction is memory before it with the
writes that it adds to the record, in that order; a read of RAM or ROM gets what the writes before it left,
also where another master wrote between two cycles of the instruction; and what is added holds just the other
masters' writes that the environment made in those cycles. The record before may hold the fetch (R44, R49,
R69, R70, R73). -/
def Obligations.MemoryIsReplayOfBusWrites : Prop :=
  ∀ (i : Instr) (s t : State), exec i s = .next t →
    ∃ new, t.bus.record = s.bus.record ++ new ∧
      t.mem = replay s.bus.platform s.mem new ∧ t.bus.platform = s.bus.platform ∧
      (∀ before c after, new = before ++ .cycle c :: after → c.vma = true → c.write = false →
        InMemory s c.addr → c.data = some ((replay s.bus.platform s.mem before).read c.addr)) ∧
      new.filterMap (fun e => match e with
        | .other addr v => some (addr, v)
        | .cycle _ => none) =
        (s.bus.inputs.take (mpuCycles new).length).flatMap CycleInput.others

/-! ## Rules over all instructions -/

/-- No instruction writes a flag outside its row of the matrix in R24. The rows of CPX, INX, DEX, INS,
DES, LDX, LDS, STX, STS, TXS and TSX are general knowledge that the spec adopts (D9, log 13). -/
def Obligations.FlagsOutsideMatrixAreKept : Prop :=
  ∀ (i : Instr) (s t : State), exec i s = .next t →
    (i.mayWrite.h = false → t.ccr.h = s.ccr.h) ∧ (i.mayWrite.i = false → t.ccr.i = s.ccr.i) ∧
    (i.mayWrite.n = false → t.ccr.n = s.ccr.n) ∧ (i.mayWrite.z = false → t.ccr.z = s.ccr.z) ∧
    (i.mayWrite.v = false → t.ccr.v = s.ccr.v) ∧ (i.mayWrite.c = false → t.ccr.c = s.ccr.c)

/-- X is written only by LDX, INX, DEX, TSX and RTI; SP only by LDS, TXS, INS, DES, PSH, PUL, BSR, JSR,
RTS, RTI, SWI and WAI; the run state only by WAI (R12, R14, R29). -/
def Obligations.RegisterWriters : Prop :=
  ∀ (i : Instr) (s t : State), exec i s = .next t →
    (match i with
      | .ldx _ | .inx | .dex | .tsx | .rti => True
      | _ => t.x = s.x) ∧
    (match i with
      | .lds _ | .txs | .ins | .des | .pshA | .pshB | .pulA | .pulB | .bsr _ | .jsr _ | .rts | .rti
      | .swi | .wai => True
      | _ => t.sp = s.sp) ∧
    (match i with
      | .wai => t.run = .waiting
      | _ => t.run = s.run)

/-- Fetching an instruction moves PC from its opcode to opcode address plus length, modulo 2^16; executing
it leaves PC there, unless it loads PC itself (R82; the wrap is the spec's decision D5, log 14). -/
def Obligations.SequentialProgramCounter : Prop :=
  ∀ (i : Instr) (s t : State),
    (s.fetchInstr.1 = i → s.fetchInstr.2.pc.toNat = (s.pc.toNat + i.length) % 65536) ∧
    (exec i s = .next t →
      match i with
      | .bra _ | .bhi _ | .bls _ | .bcc _ | .bcs _ | .bne _ | .beq _ | .bvc _ | .bvs _ | .bpl _ | .bmi _
      | .bge _ | .blt _ | .bgt _ | .ble _ | .bsr _ | .jmp _ | .jsr _ | .rts | .rti | .swi => True
      | _ => t.pc = s.pc)

/-- H goes nowhere but into DAA and the condition code byte: of two states that differ in H only, every
instruction but DAA, TPA, SWI and WAI makes two states that differ in H at most (R18). -/
def Obligations.HalfCarryFeedsDecimalAdjustOnly : Prop :=
  ∀ (i : Instr) (s t : State) (h : Bool), i ≠ .daa → i ≠ .tpa → i ≠ .swi → i ≠ .wai →
    exec i s = .next t →
    ∃ u, exec i { s with ccr := { s.ccr with h := h } } = .next u ∧
      { t with ccr := { t.ccr with h := u.ccr.h } } = u

/-! ## The machine at instruction boundaries (file 60, file 70) -/

/-- At an open boundary of a running or halted machine with no NMI, and no IRQ that is unmasked and not
delayed, a step reads the bytes of one instruction at PC, moves PC past them and executes what they decode
to. Where memory answers, they are the bytes in memory, so it is the instruction that memory holds at PC
(R82, R273, R282, R300). That an IRQ is passed over while `irqInhibit` is set is D8 (log 16), that a masked
IRQ of the halted state is dropped is D10 (log 19). -/
def Obligations.StepRunsDecodedInstruction : Prop :=
  ∀ s s' : State,
    OpenBoundary s → (s.run = .running ∨ s.run = .halted) → ¬NmiRequested s →
    (IrqRequested s → s.ccr.i = true ∨ s.irqInhibit = true) → AtExecute s s' →
    ∃ bytes i f, decode bytes = .ok (i, []) ∧ i.wf = true ∧ step s = exec i f ∧
      f = { s' with pc := s.pc + BitVec.ofNat 16 bytes.length, bus := f.bus } ∧ Stores [] s' f ∧
      (mpuCycles f.bus.record).map (fun c => (c.vma, c.write, c.addr, c.data)) =
        bytes.mapIdx (fun k b => (true, false, s.pc + BitVec.ofNat 16 k, some b)) ∧
      (∀ k < bytes.length, ReadsMemory s' (s.pc + BitVec.ofNat 16 k) →
        bytes[k]? = some (s'.mem.read (s.pc + BitVec.ofNat 16 k))) ∧
      ((∀ k < 3, ReadsMemory s' (s.pc + BitVec.ofNat 16 k)) → ∀ i' rest,
        decode [s'.mem.read s.pc, s'.mem.read (s.pc + 1), s'.mem.read (s.pc + 2)] = .ok (i', rest) →
        i' = i)

/-- No step faults: it gives a next state, or it refuses because the opcode that it fetched is unassigned,
which is the byte in memory at PC where memory answers (R270, R92). -/
def Obligations.StepCompletesOrMeetsUnassignedOpcode : Prop :=
  ∀ s : State, (∃ t, step s = .next t) ∨
    ∃ op, isUnassigned op = true ∧ step s = .refused (.unassignedOpcode op) ∧
      s.sampled.action = .execute ∧ op = s.onBus.readData s.pc ∧
      (ReadsMemory s.onBus s.pc → op = s.afterDma.read s.pc)

/-- NMI at an open boundary of a running or halted machine: the registers stacked with PC of the next
instruction, I set, PC from FFFC and FFFD, the latch and the ITMP delay cleared, whatever I and IRQ are
(R275 to R277, R279; NMI before IRQ is the spec's decision D3, log 17; the latch is D15, log 18). -/
def Obligations.NonMaskableInterruptSequence : Prop :=
  ∀ s : State, OpenBoundary s → (s.run = .running ∨ s.run = .halted) → NmiRequested s →
    ∃ t, step s = .next t ∧ StacksRegisters s.pc s.onBus t ∧ LoadsVector 0xFFFC s.onBus t ∧
      t.ccr = { s.ccr with i := true } ∧
      t.a = s.a ∧ t.b = s.b ∧ t.x = s.x ∧ t.run = .running ∧ t.nmiPending = false ∧
      t.irqInhibit = false ∧ t.irqLatchedInHalt = s.irqLatchedInHalt

/-- IRQ at an open boundary of a running or halted machine with I = 0, no ITMP delay and no NMI: the same
through FFF8 and FFF9 (R274, R276 to R278; the latch of the halted state is D10, log 19). -/
def Obligations.InterruptRequestSequence : Prop :=
  ∀ s : State, OpenBoundary s → (s.run = .running ∨ s.run = .halted) → ¬NmiRequested s →
    IrqRequested s → s.ccr.i = false → s.irqInhibit = false →
    ∃ t, step s = .next t ∧ StacksRegisters s.pc s.onBus t ∧ LoadsVector 0xFFF8 s.onBus t ∧
      t.ccr = { s.ccr with i := true } ∧
      t.a = s.a ∧ t.b = s.b ∧ t.x = s.x ∧ t.run = .running ∧ t.nmiPending = false ∧
      t.irqInhibit = false ∧ t.irqLatchedInHalt = false

/-- With IRQ low throughout and I = 1 before: CLI, NOP, SEI is interrupted before the SEI, with I = 0 on
the stack; CLI, SEI is not interrupted, and SEI has run (R331; the ITMP delay is D8, log 16). -/
def Obligations.InterruptWindow : Prop :=
  ∀ s : State, s.env = [] → s.run = .running → s.nmiPending = false → s.ccr.i = true →
    s.irqInhibit = false →
    s.lines = { reset := .high, halt := .high, irq := .low, nmi := .high, tsc := .low } →
    InMemory s s.pc → InMemory s (s.pc + 1) → s.mem.read s.pc = 0x0E →
    (s.mem.read (s.pc + 1) = 0x01 →
      ∃ r t, steps 2 s = .next r ∧ r.pc = s.pc + 2 ∧ r.ccr = { s.ccr with i := false } ∧
        r.sp = s.sp ∧ r.mem = s.mem ∧ step r = .next t ∧ StacksRegisters (s.pc + 2) r.onBus t ∧
        LoadsVector 0xFFF8 r.onBus t ∧ t.ccr = s.ccr) ∧
    (s.mem.read (s.pc + 1) = 0x0F →
      ∃ t, steps 2 s = .next t ∧ t.pc = s.pc + 2 ∧ t.sp = s.sp ∧ t.ccr = s.ccr ∧ t.mem = s.mem ∧
        t.sampled.action = .execute)

/-- The wait state ends at an open boundary with NMI, or with IRQ and I = 0: I set, PC from the vector,
nothing stored; with neither it goes on (R232, R287; NMI first by D3, log 17; an IRQ that was latched while
HALT was low ends the wait with the line high again by D10 and D16, log 19, log 20). -/
def Obligations.WaitStateExits : Prop :=
  ∀ s : State, OpenBoundary s → s.run = .waiting →
    ∃ t, step s = .next t ∧ Stores [] s.onBus t ∧ t.a = s.a ∧ t.b = s.b ∧ t.x = s.x ∧ t.sp = s.sp ∧
      (NmiRequested s → t.run = .running ∧ t.ccr = { s.ccr with i := true } ∧ t.nmiPending = false ∧
        LoadsVector 0xFFFC s.onBus t) ∧
      (¬NmiRequested s → IrqRequested s → s.ccr.i = false →
        t.run = .running ∧ t.ccr = { s.ccr with i := true } ∧ t.irqLatchedInHalt = false ∧
        LoadsVector 0xFFF8 s.onBus t) ∧
      (¬NmiRequested s → (IrqRequested s → s.ccr.i = true) →
        t.run = .waiting ∧ t.ccr = s.ccr ∧ t.pc = s.pc ∧ t.mem = s.afterDma ∧ t.bus.record = [])

/-- With I = 1 at a WAI, only NMI or reset ends the wait: while neither comes, the machine waits through
any number of boundaries, whatever IRQ and HALT do, with every register and, where no other master
writes, all of memory as it was (R232, R287; no source speaks of HALT in the wait state, that the machine
waits on is the spec's decision D16, log 20). -/
def Obligations.MaskedWaitLastsForever : Prop :=
  ∀ (n : Nat) (s : State), s.run = .waiting → s.ccr.i = true → s.nmiPending = false →
    s.lines.reset = .high → s.lines.tsc = .low →
    (∀ p ∈ s.env, p.lines.reset = .high ∧ p.lines.tsc = .low ∧ p.lines.nmi = .high ∧
      p.nmiPulse = false ∧ p.dma = [] ∧ p.resetAfter = none) →
    ∃ t, steps n s = .next t ∧ t.run = .waiting ∧ t.a = s.a ∧ t.b = s.b ∧ t.x = s.x ∧ t.sp = s.sp ∧
      t.pc = s.pc ∧ t.ccr = s.ccr ∧ t.mem = s.mem

/-- HALT low at a boundary (TSC low, RESET high): no register changes, memory changes only by other
masters, a running MPU is halted and a waiting one stays waiting, NMI and IRQ are latched (R290, R30;
the latch and HALT in the wait state are D10 and D16, log 19, log 20). -/
def Obligations.HaltSuspends : Prop :=
  ∀ s : State, s.sample.resetAfter = none → s.sample.lines.tsc = .low →
    s.sample.lines.reset = .high → s.sample.lines.halt = .low → s.run ≠ .inReset →
    ∃ t, step s = .next t ∧ t.a = s.a ∧ t.b = s.b ∧ t.x = s.x ∧ t.sp = s.sp ∧ t.pc = s.pc ∧
      t.ccr = s.ccr ∧ t.mem = s.afterDma ∧ t.bus.record = [] ∧ t.irqInhibit = s.irqInhibit ∧
      (t.run = if s.run = .waiting then .waiting else .halted) ∧
      (t.nmiPending = true ↔ NmiRequested s) ∧ (t.irqLatchedInHalt = true ↔ IrqRequested s)

/-- RESET low at a boundary holds the machine in reset, whatever TSC and HALT are: no access, no register
changes; and the boundary at which it is high again, with the clocks running, makes the reset sequence: I
set, PC from FFFE and FFFF, the latches clear, Running, nothing stored. A, B, X, SP and the other flags are
not constrained (R289, R320, R321, R34; the latches are D11, log 32, the free registers log 4). That RESET
released with HALT low fetches the vector first is the spec's choice, not to be relied on (U23, log 21);
that RESET is tested before TSC is the order of R300, and that the sequence waits for the clocks is the
model's choice (log 39). That two read cycles are all that the sequence makes is the model's choice too:
the sources do not give its cycles (R68, N4), and its record holds the vector reads alone (log 28). -/
def Obligations.ResetHoldAndSequence : Prop :=
  ∀ s : State, s.sample.resetAfter = none →
    (s.sample.lines.reset = .low →
      ∃ t, step s = .next t ∧ t.run = .inReset ∧ t.bus.record = [] ∧ t.mem = s.afterDma ∧ t.a = s.a ∧
        t.b = s.b ∧ t.x = s.x ∧ t.sp = s.sp ∧ t.pc = s.pc ∧ t.ccr = s.ccr) ∧
    (s.sample.lines.tsc = .low → s.sample.lines.reset = .high → s.run = .inReset →
      ∃ t, step s = .next t ∧ t.run = .running ∧ t.ccr.i = true ∧ Stores [] s.onBus t ∧
        LoadsVector 0xFFFE s.onBus t ∧ CyclesFit [.read 0xFFFE, .read 0xFFFF] s.onBus t ∧
        t.nmiPending = false ∧ t.irqInhibit = false ∧ t.irqLatchedInHalt = false)

/-- RESET that falls after `k` cycles of a step, be it an instruction, an interrupt sequence, a reset
sequence or a wait exit: what the bus did up to the last of those cycles has happened, what would have
followed has not, and the machine is in reset. So an interrupt sequence has stacked the first `k` of its
seven bytes (R289, R323; how the instant is given is the model's, log 25). Three points are the model's
choices: that the count `k` meets the pushes from the first cycle on, since the sources do not give the other
cycles of the sequences (R68, N3), and the record has their pushes and vector reads alone (log 28); that RESET
also falls in a step which TSC has stopped, and which has no cycles (log 39); and that of an unassigned opcode,
RESET before or right after its fetch comes first, and later the refusal (log 25). -/
def Obligations.ResetCutsInstructionShort : Prop :=
  ∀ (s : State) (p : Sample) (rest : List Sample) (k : Nat),
    s.env = { p with resetAfter := some k } :: rest →
    let whole := { s with env := { p with resetAfter := none } :: rest }
    (∀ t, step whole = .next t →
      ∃ u, step s = .next u ∧ u.run = .inReset ∧ u.lines.reset = .low ∧
        u.bus.record = takeCycles k t.bus.record ∧
        u.mem = replay s.bus.platform s.afterDma (takeCycles k t.bus.record) ∧
        ((mpuCycles t.bus.record).length ≤ k → u.mem = t.mem)) ∧
    (∀ r, step whole = .refused r →
      if k ≤ 1 then ∃ u, step s = .next u ∧ u.run = .inReset ∧ mpuWrites u.bus.record = []
      else step s = .refused r) ∧
    (OpenBoundary whole → (s.run = .running ∨ s.run = .halted) →
      (NmiRequested s ∨ (IrqRequested s ∧ s.ccr.i = false ∧ s.irqInhibit = false)) →
      DrivesData p.cycles →
      ∃ u, step s = .next u ∧ u.run = .inReset ∧
        mpuWrites u.bus.record = (stackedBytes s.pc s).take k)

/-- TSC high (RESET high): no register changes, no cycle runs, and memory changes only by other masters
(R73, R292). Requests are latched all the same: an NMI edge outside the reset state, and an IRQ where HALT
holds the machine halted or waiting. R73 and R292 do not speak of requests: that they are latched is the
model's choice (log 39, log 18, log 19), as is what TSC does at a boundary (log 26). -/
def Obligations.ThreeStateFreezes : Prop :=
  ∀ s : State, s.sample.lines.tsc = .high → s.sample.lines.reset = .high → s.sample.resetAfter = none →
    ∃ t, step s = .next t ∧
      t = { s.onBus with
        lines := s.sample.lines, env := s.env.tail, nmiPending := t.nmiPending
        irqLatchedInHalt := t.irqLatchedInHalt } ∧
      (s.run ≠ .inReset → (t.nmiPending = true ↔ NmiRequested s)) ∧
      (t.irqLatchedInHalt = true ↔ s.irqLatchedInHalt = true ∨
        (s.sample.lines.halt = .low ∧ s.sample.lines.irq = .low ∧
          (s.run = .halted ∨ s.run = .waiting)))

/-- While the MPU has the bus, what other masters try to write between steps changes nothing; while it has
released the bus, their writes land in order, in RAM only (R72, R73; log 31). -/
def Obligations.OtherMastersNeedReleasedBus : Prop :=
  ∀ (s : State) (p : Sample) (rest : List Sample), s.env = p :: rest →
    (s.run ≠ .waiting → s.run ≠ .halted → s.lines.tsc = .low →
      ∀ dma, step { s with env := { p with dma := dma } :: rest } = step s) ∧
    ((s.run = .waiting ∨ s.run = .halted ∨ s.lines.tsc = .high) →
      s.afterDma = s.mem.storeAll s.bus.platform p.dma)

/-- Only WAI enters the wait state, and only CLI, TAP and RTI clear I: the step then executes an
instruction whose fetched opcode is one of theirs (R19, R29). -/
def Obligations.OnlyTheseEventsWaitOrUnmask : Prop :=
  ∀ s t : State, step s = .next t →
    (t.run = .waiting → s.run = .waiting ∨
      (s.sampled.action = .execute ∧ s.onBus.readData s.pc = 0x3E)) ∧
    (s.ccr.i = true → t.ccr.i = false →
      s.sampled.action = .execute ∧ (s.onBus.readData s.pc = 0x0E ∨
        s.onBus.readData s.pc = 0x06 ∨ s.onBus.readData s.pc = 0x3B))

/-- The output lines: BA is high just while the machine waits or is halted and TSC is low, so it is low
while the machine runs, and in every cycle; in a cycle VMA, R/W, the address bus and the data bus are those of
the cycle; and the lines at rest, under TSC, in reset, waiting and halted (R33, R43, R72, R73, R232, R290,
R320). Where the cycle tables call the data irrelevant the cycle has none (the model's choice, log 28). In reset with TSC high R73 and R320 give R/W and the address bus different
values: that TSC wins there is the model's choice (log 39). Nothing is said of the data bus under TSC
(log 26). -/
def Obligations.RestingOutputLines : Prop :=
  ∀ (s : State) (c : BusCycle),
    (s.ba = .high ↔ s.lines.tsc = .low ∧ (s.run = .waiting ∨ s.run = .halted)) ∧
    c.pins.ba = .low ∧ (c.pins.vma = .high ↔ c.vma = true) ∧
    c.pins.rw = some (if c.write then .low else .high) ∧ c.pins.addressBus = some c.addr ∧
    c.pins.dataBus = c.data ∧
    (s.lines.tsc = .high → ∃ p, s.restingPins = some p ∧ p.ba = .low ∧ p.vma = .low ∧ p.rw = none ∧
      p.addressBus = none) ∧
    (s.lines.tsc = .low → s.run = .inReset → ∃ p, s.restingPins = some p ∧ p.ba = .low ∧
      p.vma = .low ∧ p.rw = some .high ∧ p.addressBus = some 0xFFFE ∧ p.dataBus = none) ∧
    (s.lines.tsc = .low → (s.run = .waiting ∨ s.run = .halted) → ∃ p, s.restingPins = some p ∧
      p.ba = .high ∧ p.vma = .low ∧ p.rw = none ∧ p.addressBus = none ∧ p.dataBus = none)

/-! ## Reset state and invariants -/

/-- The state after reset as far as R34 gives values: I = 1, Running, PC from the vector; the cleared
latches are the spec's decision D11 (log 32). It meets both invariants below. -/
def Obligations.ResetStateAndInvariants : Prop :=
  State.reset.ccr.i = true ∧ State.reset.run = .running ∧
  State.reset.pc = State.reset.mem.read16 0xFFFE ∧ State.reset.nmiPending = false ∧
  State.reset.irqInhibit = false ∧ State.reset.irqLatchedInHalt = false ∧
  State.reset.mem.wf = true ∧ ControlInv State.reset

/-- Every step keeps memory in its canonical form, so that equal memories are equal data. -/
def Obligations.StepKeepsMemoryCanonical : Prop :=
  ∀ s t : State, s.mem.wf = true → step s = .next t → t.mem.wf = true

/-- Every step keeps the control state consistent: an inhibited IRQ goes with I = 0 outside the wait
state; RESET low goes with the reset state, and while the clocks run the reset state goes with RESET low
and the halted state with HALT low (R28, R29, R300). -/
def Obligations.StepKeepsControlInvariant : Prop :=
  ∀ s t : State, ControlInv s → step s = .next t → ControlInv t

end
end

