-- ==== Sys2Proof/Laws/Memory.lean ====
section
/-! SUPPORT. The laws of memory: read after write, what a write on the bus does, and every operation keeps the
canonical form. -/

namespace Sys2Proof.Machine

theorem readCells_dropCell (l : List Host.Cell) (a b : Nat) :
    readCells (dropCell l a) b = if a = b then unlistedByte else readCells l b := by
  induction l with
  | nil => simp [dropCell, readCells]
  | cons c rest ih =>
    obtain ⟨k, w⟩ := c
    by_cases hk : k = a
    · subst hk
      by_cases hab : k = b
      · simp only [hab, if_true] at ih
        simp [dropCell, hab, ih]
      · simp [dropCell, readCells, hab, ih]
    · by_cases hab : a = b
      · subst hab; simp [dropCell, readCells, hk, ih]
      · simp [dropCell, readCells, hk, hab, ih]

theorem readCells_putCell (l : List Host.Cell) (a b : Nat) (v : Byte) :
    readCells (putCell l a v) b = if a = b then v else readCells l b := by
  induction l with
  | nil => simp [putCell, readCells]
  | cons c rest ih =>
    obtain ⟨k, w⟩ := c
    simp only [putCell]
    split
    · simp [readCells]
    · split
      · subst_vars; simp only [readCells]; split <;> rfl
      · simp only [readCells, ih]; split
        · rename_i h1 h2; subst h2; rw [if_neg (fun h => h1 h.symm)]
        · rfl

/-- Reading where a byte was written gives the byte; everywhere else memory reads as before (R44). -/
theorem Memory.read_write (m : Memory) (a b : Word) (v : Byte) :
    (m.write a v).read b = if a = b then v else m.read b := by
  unfold Memory.write Memory.read
  have hiff : (a.toNat = b.toNat) ↔ a = b := ⟨BitVec.eq_of_toNat_eq, fun h => h ▸ rfl⟩
  split
  · next h => simp only [readCells_dropCell, hiff, h]
  · simp only [readCells_putCell, hiff]

@[simp] theorem Memory.read_write_same (m : Memory) (a : Word) (v : Byte) :
    (m.write a v).read a = v := by simp [Memory.read_write]

theorem Memory.read_write_ne (m : Memory) {a b : Word} (v : Byte) (h : a ≠ b) :
    (m.write a v).read b = m.read b := by simp [Memory.read_write, h]

theorem risingFrom_mono {lo lo' : Nat} (h : lo' ≤ lo) (l : List Host.Cell) :
    risingFrom lo l = true → risingFrom lo' l = true := by
  cases l with
  | nil => simp [risingFrom]
  | cons c rest =>
    obtain ⟨k, w⟩ := c
    simp only [risingFrom, Bool.and_eq_true, decide_eq_true_eq]
    rintro ⟨⟨⟨h1, h2⟩, h3⟩, h4⟩
    exact ⟨⟨⟨le_trans h h1, h2⟩, h3⟩, h4⟩

theorem risingFrom_dropCell (l : List Host.Cell) (lo a : Nat) :
    risingFrom lo l = true → risingFrom lo (dropCell l a) = true := by
  induction l generalizing lo with
  | nil => simp [dropCell, risingFrom]
  | cons c rest ih =>
    obtain ⟨k, w⟩ := c
    simp only [risingFrom, Bool.and_eq_true, decide_eq_true_eq, dropCell]
    rintro ⟨⟨⟨h1, h2⟩, h3⟩, h4⟩
    split
    · exact ih lo (risingFrom_mono (by omega) rest h4)
    · simp only [risingFrom, Bool.and_eq_true, decide_eq_true_eq]
      exact ⟨⟨⟨h1, h2⟩, h3⟩, ih (k + 1) h4⟩

theorem risingFrom_putCell (l : List Host.Cell) (lo a : Nat) (v : Byte) (hlo : lo ≤ a)
    (ha : a < 65536) (hv : v ≠ unlistedByte) :
    risingFrom lo l = true → risingFrom lo (putCell l a v) = true := by
  induction l generalizing lo with
  | nil => simp [putCell, risingFrom, hlo, ha, hv]
  | cons c rest ih =>
    obtain ⟨k, w⟩ := c
    simp only [risingFrom, Bool.and_eq_true, decide_eq_true_eq, putCell]
    rintro ⟨⟨⟨h1, h2⟩, h3⟩, h4⟩
    split
    · simp only [risingFrom, Bool.and_eq_true, decide_eq_true_eq]
      exact ⟨⟨⟨hlo, ha⟩, hv⟩, ⟨⟨by omega, h2⟩, h3⟩, h4⟩
    · split
      · next h => subst h; simp only [risingFrom, Bool.and_eq_true, decide_eq_true_eq]
                  exact ⟨⟨⟨h1, h2⟩, hv⟩, h4⟩
      · simp only [risingFrom, Bool.and_eq_true, decide_eq_true_eq]
        exact ⟨⟨⟨h1, h2⟩, h3⟩, ih (k + 1) (by omega) h4⟩

/-- A write keeps the canonical form. -/
theorem Memory.wf_write (m : Memory) (a : Word) (v : Byte) (h : m.wf = true) :
    (m.write a v).wf = true := by
  unfold Memory.write Memory.wf at *
  split
  · exact risingFrom_dropCell _ _ _ h
  · exact risingFrom_putCell _ _ _ _ (by omega) a.isLt (by assumption) h

/-! ## Writes on the bus -/

/-- A write lands in RAM only, and on its own address only (R44). -/
theorem Memory.read_store (m : Memory) (p : List Region) (a b : Word) (v : Byte) :
    (m.store p a v).read b = if a = b ∧ kindAt p a = .ram then v else m.read b := by
  unfold Memory.store
  split <;> simp_all [Memory.read_write]

theorem Memory.read_store_ne (m : Memory) (p : List Region) {a b : Word} (v : Byte) (h : a ≠ b) :
    (m.store p a v).read b = m.read b := by simp [Memory.read_store, h]

theorem Memory.store_of_not_ram (m : Memory) {p : List Region} {a : Word} (v : Byte)
    (h : kindAt p a ≠ .ram) : m.store p a v = m := by simp [Memory.store, h]

/-- A write on the bus keeps the canonical form. -/
theorem Memory.wf_store (m : Memory) (p : List Region) (a : Word) (v : Byte) (h : m.wf = true) :
    (m.store p a v).wf = true := by
  unfold Memory.store
  split
  · exact Memory.wf_write m a v h
  · exact h

/-- Writes on the bus keep the canonical form. -/
theorem Memory.wf_storeAll (l : List (Word × Byte)) (m : Memory) (p : List Region)
    (h : m.wf = true) : (m.storeAll p l).wf = true := by
  induction l generalizing m with
  | nil => exact h
  | cons c rest ih => exact ih _ (Memory.wf_store m p c.1 c.2 h)

/-- Writes on the bus leave every address they do not name as it was. -/
theorem Memory.read_storeAll_of_ne (l : List (Word × Byte)) (m : Memory) (p : List Region)
    (a : Word) (h : ∀ w ∈ l, w.1 ≠ a) : (m.storeAll p l).read a = m.read a := by
  induction l generalizing m with
  | nil => rfl
  | cons c rest ih =>
    rw [Memory.storeAll, ih _ (fun w hw => h w (List.mem_cons_of_mem _ hw)),
      Memory.read_store_ne _ _ _ (h c List.mem_cons_self)]

/-- Writes on the bus change nothing where there is no RAM. -/
theorem Memory.read_storeAll_of_not_ram (l : List (Word × Byte)) (m : Memory) (p : List Region)
    (a : Word) (h : kindAt p a ≠ .ram) : (m.storeAll p l).read a = m.read a := by
  induction l generalizing m with
  | nil => rfl
  | cons c rest ih =>
    rw [Memory.storeAll, ih, Memory.read_store, if_neg]
    rintro ⟨rfl, hk⟩
    exact h hk

/-- The reset memory is in canonical form. -/
theorem reset_mem_wf : State.reset.bus.mem.wf = true := rfl

/-- PC after reset is what the reset vector of the reset memory holds (R34). -/
theorem reset_pc_eq_vector : State.reset.pc = State.reset.bus.mem.read16 0xFFFE := rfl

end Sys2Proof.Machine
end

