-- ==== Sys2Proof/Laws/State.lean ====
section
/-! SUPPORT. One lemma for each field of State under each one-field update, all true by unfolding, so
that no later proof unfolds a record update. -/

namespace Sys2Proof.Machine.State

/-- States with equal fields are equal. -/
theorem eq_of_fields {s t : State} (a : s.a = t.a) (b : s.b = t.b) (x : s.x = t.x)
    (sp : s.sp = t.sp) (pc : s.pc = t.pc) (ccr : s.ccr = t.ccr)
    (run : s.run = t.run) (nmi : s.nmiPending = t.nmiPending) (inh : s.irqInhibit = t.irqInhibit)
    (lat : s.irqLatchedInHalt = t.irqLatchedInHalt) (lines : s.lines = t.lines)
    (env : s.env = t.env) (draws : s.draws = t.draws) (bus : s.bus = t.bus) : s = t := by
  cases s; cases t; simp_all

/-! ### setA -/

@[simp] theorem setA_a (s : State) (v) : (s.setA v).a = v := rfl
@[simp] theorem setA_b (s : State) (v) : (s.setA v).b = s.b := rfl
@[simp] theorem setA_x (s : State) (v) : (s.setA v).x = s.x := rfl
@[simp] theorem setA_sp (s : State) (v) : (s.setA v).sp = s.sp := rfl
@[simp] theorem setA_pc (s : State) (v) : (s.setA v).pc = s.pc := rfl
@[simp] theorem setA_ccr (s : State) (v) : (s.setA v).ccr = s.ccr := rfl
@[simp] theorem setA_run (s : State) (v) : (s.setA v).run = s.run := rfl
@[simp] theorem setA_nmiPending (s : State) (v) : (s.setA v).nmiPending = s.nmiPending := rfl
@[simp] theorem setA_irqInhibit (s : State) (v) : (s.setA v).irqInhibit = s.irqInhibit := rfl
@[simp] theorem setA_irqLatchedInHalt (s : State) (v) : (s.setA v).irqLatchedInHalt = s.irqLatchedInHalt := rfl
@[simp] theorem setA_lines (s : State) (v) : (s.setA v).lines = s.lines := rfl
@[simp] theorem setA_env (s : State) (v) : (s.setA v).env = s.env := rfl
@[simp] theorem setA_draws (s : State) (v) : (s.setA v).draws = s.draws := rfl
@[simp] theorem setA_bus (s : State) (v) : (s.setA v).bus = s.bus := rfl

/-! ### setB -/

@[simp] theorem setB_a (s : State) (v) : (s.setB v).a = s.a := rfl
@[simp] theorem setB_b (s : State) (v) : (s.setB v).b = v := rfl
@[simp] theorem setB_x (s : State) (v) : (s.setB v).x = s.x := rfl
@[simp] theorem setB_sp (s : State) (v) : (s.setB v).sp = s.sp := rfl
@[simp] theorem setB_pc (s : State) (v) : (s.setB v).pc = s.pc := rfl
@[simp] theorem setB_ccr (s : State) (v) : (s.setB v).ccr = s.ccr := rfl
@[simp] theorem setB_run (s : State) (v) : (s.setB v).run = s.run := rfl
@[simp] theorem setB_nmiPending (s : State) (v) : (s.setB v).nmiPending = s.nmiPending := rfl
@[simp] theorem setB_irqInhibit (s : State) (v) : (s.setB v).irqInhibit = s.irqInhibit := rfl
@[simp] theorem setB_irqLatchedInHalt (s : State) (v) : (s.setB v).irqLatchedInHalt = s.irqLatchedInHalt := rfl
@[simp] theorem setB_lines (s : State) (v) : (s.setB v).lines = s.lines := rfl
@[simp] theorem setB_env (s : State) (v) : (s.setB v).env = s.env := rfl
@[simp] theorem setB_draws (s : State) (v) : (s.setB v).draws = s.draws := rfl
@[simp] theorem setB_bus (s : State) (v) : (s.setB v).bus = s.bus := rfl

/-! ### setX -/

@[simp] theorem setX_a (s : State) (v) : (s.setX v).a = s.a := rfl
@[simp] theorem setX_b (s : State) (v) : (s.setX v).b = s.b := rfl
@[simp] theorem setX_x (s : State) (v) : (s.setX v).x = v := rfl
@[simp] theorem setX_sp (s : State) (v) : (s.setX v).sp = s.sp := rfl
@[simp] theorem setX_pc (s : State) (v) : (s.setX v).pc = s.pc := rfl
@[simp] theorem setX_ccr (s : State) (v) : (s.setX v).ccr = s.ccr := rfl
@[simp] theorem setX_run (s : State) (v) : (s.setX v).run = s.run := rfl
@[simp] theorem setX_nmiPending (s : State) (v) : (s.setX v).nmiPending = s.nmiPending := rfl
@[simp] theorem setX_irqInhibit (s : State) (v) : (s.setX v).irqInhibit = s.irqInhibit := rfl
@[simp] theorem setX_irqLatchedInHalt (s : State) (v) : (s.setX v).irqLatchedInHalt = s.irqLatchedInHalt := rfl
@[simp] theorem setX_lines (s : State) (v) : (s.setX v).lines = s.lines := rfl
@[simp] theorem setX_env (s : State) (v) : (s.setX v).env = s.env := rfl
@[simp] theorem setX_draws (s : State) (v) : (s.setX v).draws = s.draws := rfl
@[simp] theorem setX_bus (s : State) (v) : (s.setX v).bus = s.bus := rfl

/-! ### setSp -/

@[simp] theorem setSp_a (s : State) (v) : (s.setSp v).a = s.a := rfl
@[simp] theorem setSp_b (s : State) (v) : (s.setSp v).b = s.b := rfl
@[simp] theorem setSp_x (s : State) (v) : (s.setSp v).x = s.x := rfl
@[simp] theorem setSp_sp (s : State) (v) : (s.setSp v).sp = v := rfl
@[simp] theorem setSp_pc (s : State) (v) : (s.setSp v).pc = s.pc := rfl
@[simp] theorem setSp_ccr (s : State) (v) : (s.setSp v).ccr = s.ccr := rfl
@[simp] theorem setSp_run (s : State) (v) : (s.setSp v).run = s.run := rfl
@[simp] theorem setSp_nmiPending (s : State) (v) : (s.setSp v).nmiPending = s.nmiPending := rfl
@[simp] theorem setSp_irqInhibit (s : State) (v) : (s.setSp v).irqInhibit = s.irqInhibit := rfl
@[simp] theorem setSp_irqLatchedInHalt (s : State) (v) : (s.setSp v).irqLatchedInHalt = s.irqLatchedInHalt := rfl
@[simp] theorem setSp_lines (s : State) (v) : (s.setSp v).lines = s.lines := rfl
@[simp] theorem setSp_env (s : State) (v) : (s.setSp v).env = s.env := rfl
@[simp] theorem setSp_draws (s : State) (v) : (s.setSp v).draws = s.draws := rfl
@[simp] theorem setSp_bus (s : State) (v) : (s.setSp v).bus = s.bus := rfl

/-! ### setPc -/

@[simp] theorem setPc_a (s : State) (v) : (s.setPc v).a = s.a := rfl
@[simp] theorem setPc_b (s : State) (v) : (s.setPc v).b = s.b := rfl
@[simp] theorem setPc_x (s : State) (v) : (s.setPc v).x = s.x := rfl
@[simp] theorem setPc_sp (s : State) (v) : (s.setPc v).sp = s.sp := rfl
@[simp] theorem setPc_pc (s : State) (v) : (s.setPc v).pc = v := rfl
@[simp] theorem setPc_ccr (s : State) (v) : (s.setPc v).ccr = s.ccr := rfl
@[simp] theorem setPc_run (s : State) (v) : (s.setPc v).run = s.run := rfl
@[simp] theorem setPc_nmiPending (s : State) (v) : (s.setPc v).nmiPending = s.nmiPending := rfl
@[simp] theorem setPc_irqInhibit (s : State) (v) : (s.setPc v).irqInhibit = s.irqInhibit := rfl
@[simp] theorem setPc_irqLatchedInHalt (s : State) (v) : (s.setPc v).irqLatchedInHalt = s.irqLatchedInHalt := rfl
@[simp] theorem setPc_lines (s : State) (v) : (s.setPc v).lines = s.lines := rfl
@[simp] theorem setPc_env (s : State) (v) : (s.setPc v).env = s.env := rfl
@[simp] theorem setPc_draws (s : State) (v) : (s.setPc v).draws = s.draws := rfl
@[simp] theorem setPc_bus (s : State) (v) : (s.setPc v).bus = s.bus := rfl

/-! ### setCcr -/

@[simp] theorem setCcr_a (s : State) (v) : (s.setCcr v).a = s.a := rfl
@[simp] theorem setCcr_b (s : State) (v) : (s.setCcr v).b = s.b := rfl
@[simp] theorem setCcr_x (s : State) (v) : (s.setCcr v).x = s.x := rfl
@[simp] theorem setCcr_sp (s : State) (v) : (s.setCcr v).sp = s.sp := rfl
@[simp] theorem setCcr_pc (s : State) (v) : (s.setCcr v).pc = s.pc := rfl
@[simp] theorem setCcr_ccr (s : State) (v) : (s.setCcr v).ccr = v := rfl
@[simp] theorem setCcr_run (s : State) (v) : (s.setCcr v).run = s.run := rfl
@[simp] theorem setCcr_nmiPending (s : State) (v) : (s.setCcr v).nmiPending = s.nmiPending := rfl
@[simp] theorem setCcr_irqInhibit (s : State) (v) : (s.setCcr v).irqInhibit = s.irqInhibit := rfl
@[simp] theorem setCcr_irqLatchedInHalt (s : State) (v) : (s.setCcr v).irqLatchedInHalt = s.irqLatchedInHalt := rfl
@[simp] theorem setCcr_lines (s : State) (v) : (s.setCcr v).lines = s.lines := rfl
@[simp] theorem setCcr_env (s : State) (v) : (s.setCcr v).env = s.env := rfl
@[simp] theorem setCcr_draws (s : State) (v) : (s.setCcr v).draws = s.draws := rfl
@[simp] theorem setCcr_bus (s : State) (v) : (s.setCcr v).bus = s.bus := rfl

/-! ### setRun -/

@[simp] theorem setRun_a (s : State) (v) : (s.setRun v).a = s.a := rfl
@[simp] theorem setRun_b (s : State) (v) : (s.setRun v).b = s.b := rfl
@[simp] theorem setRun_x (s : State) (v) : (s.setRun v).x = s.x := rfl
@[simp] theorem setRun_sp (s : State) (v) : (s.setRun v).sp = s.sp := rfl
@[simp] theorem setRun_pc (s : State) (v) : (s.setRun v).pc = s.pc := rfl
@[simp] theorem setRun_ccr (s : State) (v) : (s.setRun v).ccr = s.ccr := rfl
@[simp] theorem setRun_run (s : State) (v) : (s.setRun v).run = v := rfl
@[simp] theorem setRun_nmiPending (s : State) (v) : (s.setRun v).nmiPending = s.nmiPending := rfl
@[simp] theorem setRun_irqInhibit (s : State) (v) : (s.setRun v).irqInhibit = s.irqInhibit := rfl
@[simp] theorem setRun_irqLatchedInHalt (s : State) (v) : (s.setRun v).irqLatchedInHalt = s.irqLatchedInHalt := rfl
@[simp] theorem setRun_lines (s : State) (v) : (s.setRun v).lines = s.lines := rfl
@[simp] theorem setRun_env (s : State) (v) : (s.setRun v).env = s.env := rfl
@[simp] theorem setRun_draws (s : State) (v) : (s.setRun v).draws = s.draws := rfl
@[simp] theorem setRun_bus (s : State) (v) : (s.setRun v).bus = s.bus := rfl

/-! ### setNmiPending -/

@[simp] theorem setNmiPending_a (s : State) (v) : (s.setNmiPending v).a = s.a := rfl
@[simp] theorem setNmiPending_b (s : State) (v) : (s.setNmiPending v).b = s.b := rfl
@[simp] theorem setNmiPending_x (s : State) (v) : (s.setNmiPending v).x = s.x := rfl
@[simp] theorem setNmiPending_sp (s : State) (v) : (s.setNmiPending v).sp = s.sp := rfl
@[simp] theorem setNmiPending_pc (s : State) (v) : (s.setNmiPending v).pc = s.pc := rfl
@[simp] theorem setNmiPending_ccr (s : State) (v) : (s.setNmiPending v).ccr = s.ccr := rfl
@[simp] theorem setNmiPending_run (s : State) (v) : (s.setNmiPending v).run = s.run := rfl
@[simp] theorem setNmiPending_nmiPending (s : State) (v) : (s.setNmiPending v).nmiPending = v := rfl
@[simp] theorem setNmiPending_irqInhibit (s : State) (v) : (s.setNmiPending v).irqInhibit = s.irqInhibit := rfl
@[simp] theorem setNmiPending_irqLatchedInHalt (s : State) (v) : (s.setNmiPending v).irqLatchedInHalt = s.irqLatchedInHalt := rfl
@[simp] theorem setNmiPending_lines (s : State) (v) : (s.setNmiPending v).lines = s.lines := rfl
@[simp] theorem setNmiPending_env (s : State) (v) : (s.setNmiPending v).env = s.env := rfl
@[simp] theorem setNmiPending_draws (s : State) (v) : (s.setNmiPending v).draws = s.draws := rfl
@[simp] theorem setNmiPending_bus (s : State) (v) : (s.setNmiPending v).bus = s.bus := rfl

/-! ### setIrqInhibit -/

@[simp] theorem setIrqInhibit_a (s : State) (v) : (s.setIrqInhibit v).a = s.a := rfl
@[simp] theorem setIrqInhibit_b (s : State) (v) : (s.setIrqInhibit v).b = s.b := rfl
@[simp] theorem setIrqInhibit_x (s : State) (v) : (s.setIrqInhibit v).x = s.x := rfl
@[simp] theorem setIrqInhibit_sp (s : State) (v) : (s.setIrqInhibit v).sp = s.sp := rfl
@[simp] theorem setIrqInhibit_pc (s : State) (v) : (s.setIrqInhibit v).pc = s.pc := rfl
@[simp] theorem setIrqInhibit_ccr (s : State) (v) : (s.setIrqInhibit v).ccr = s.ccr := rfl
@[simp] theorem setIrqInhibit_run (s : State) (v) : (s.setIrqInhibit v).run = s.run := rfl
@[simp] theorem setIrqInhibit_nmiPending (s : State) (v) : (s.setIrqInhibit v).nmiPending = s.nmiPending := rfl
@[simp] theorem setIrqInhibit_irqInhibit (s : State) (v) : (s.setIrqInhibit v).irqInhibit = v := rfl
@[simp] theorem setIrqInhibit_irqLatchedInHalt (s : State) (v) : (s.setIrqInhibit v).irqLatchedInHalt = s.irqLatchedInHalt := rfl
@[simp] theorem setIrqInhibit_lines (s : State) (v) : (s.setIrqInhibit v).lines = s.lines := rfl
@[simp] theorem setIrqInhibit_env (s : State) (v) : (s.setIrqInhibit v).env = s.env := rfl
@[simp] theorem setIrqInhibit_draws (s : State) (v) : (s.setIrqInhibit v).draws = s.draws := rfl
@[simp] theorem setIrqInhibit_bus (s : State) (v) : (s.setIrqInhibit v).bus = s.bus := rfl

/-! ### setIrqLatchedInHalt -/

@[simp] theorem setIrqLatchedInHalt_a (s : State) (v) : (s.setIrqLatchedInHalt v).a = s.a := rfl
@[simp] theorem setIrqLatchedInHalt_b (s : State) (v) : (s.setIrqLatchedInHalt v).b = s.b := rfl
@[simp] theorem setIrqLatchedInHalt_x (s : State) (v) : (s.setIrqLatchedInHalt v).x = s.x := rfl
@[simp] theorem setIrqLatchedInHalt_sp (s : State) (v) : (s.setIrqLatchedInHalt v).sp = s.sp := rfl
@[simp] theorem setIrqLatchedInHalt_pc (s : State) (v) : (s.setIrqLatchedInHalt v).pc = s.pc := rfl
@[simp] theorem setIrqLatchedInHalt_ccr (s : State) (v) : (s.setIrqLatchedInHalt v).ccr = s.ccr := rfl
@[simp] theorem setIrqLatchedInHalt_run (s : State) (v) : (s.setIrqLatchedInHalt v).run = s.run := rfl
@[simp] theorem setIrqLatchedInHalt_nmiPending (s : State) (v) : (s.setIrqLatchedInHalt v).nmiPending = s.nmiPending := rfl
@[simp] theorem setIrqLatchedInHalt_irqInhibit (s : State) (v) : (s.setIrqLatchedInHalt v).irqInhibit = s.irqInhibit := rfl
@[simp] theorem setIrqLatchedInHalt_irqLatchedInHalt (s : State) (v) : (s.setIrqLatchedInHalt v).irqLatchedInHalt = v := rfl
@[simp] theorem setIrqLatchedInHalt_lines (s : State) (v) : (s.setIrqLatchedInHalt v).lines = s.lines := rfl
@[simp] theorem setIrqLatchedInHalt_env (s : State) (v) : (s.setIrqLatchedInHalt v).env = s.env := rfl
@[simp] theorem setIrqLatchedInHalt_draws (s : State) (v) : (s.setIrqLatchedInHalt v).draws = s.draws := rfl
@[simp] theorem setIrqLatchedInHalt_bus (s : State) (v) : (s.setIrqLatchedInHalt v).bus = s.bus := rfl

/-! ### setLines -/

@[simp] theorem setLines_a (s : State) (v) : (s.setLines v).a = s.a := rfl
@[simp] theorem setLines_b (s : State) (v) : (s.setLines v).b = s.b := rfl
@[simp] theorem setLines_x (s : State) (v) : (s.setLines v).x = s.x := rfl
@[simp] theorem setLines_sp (s : State) (v) : (s.setLines v).sp = s.sp := rfl
@[simp] theorem setLines_pc (s : State) (v) : (s.setLines v).pc = s.pc := rfl
@[simp] theorem setLines_ccr (s : State) (v) : (s.setLines v).ccr = s.ccr := rfl
@[simp] theorem setLines_run (s : State) (v) : (s.setLines v).run = s.run := rfl
@[simp] theorem setLines_nmiPending (s : State) (v) : (s.setLines v).nmiPending = s.nmiPending := rfl
@[simp] theorem setLines_irqInhibit (s : State) (v) : (s.setLines v).irqInhibit = s.irqInhibit := rfl
@[simp] theorem setLines_irqLatchedInHalt (s : State) (v) : (s.setLines v).irqLatchedInHalt = s.irqLatchedInHalt := rfl
@[simp] theorem setLines_lines (s : State) (v) : (s.setLines v).lines = v := rfl
@[simp] theorem setLines_env (s : State) (v) : (s.setLines v).env = s.env := rfl
@[simp] theorem setLines_draws (s : State) (v) : (s.setLines v).draws = s.draws := rfl
@[simp] theorem setLines_bus (s : State) (v) : (s.setLines v).bus = s.bus := rfl

/-! ### setEnv -/

@[simp] theorem setEnv_a (s : State) (v) : (s.setEnv v).a = s.a := rfl
@[simp] theorem setEnv_b (s : State) (v) : (s.setEnv v).b = s.b := rfl
@[simp] theorem setEnv_x (s : State) (v) : (s.setEnv v).x = s.x := rfl
@[simp] theorem setEnv_sp (s : State) (v) : (s.setEnv v).sp = s.sp := rfl
@[simp] theorem setEnv_pc (s : State) (v) : (s.setEnv v).pc = s.pc := rfl
@[simp] theorem setEnv_ccr (s : State) (v) : (s.setEnv v).ccr = s.ccr := rfl
@[simp] theorem setEnv_run (s : State) (v) : (s.setEnv v).run = s.run := rfl
@[simp] theorem setEnv_nmiPending (s : State) (v) : (s.setEnv v).nmiPending = s.nmiPending := rfl
@[simp] theorem setEnv_irqInhibit (s : State) (v) : (s.setEnv v).irqInhibit = s.irqInhibit := rfl
@[simp] theorem setEnv_irqLatchedInHalt (s : State) (v) : (s.setEnv v).irqLatchedInHalt = s.irqLatchedInHalt := rfl
@[simp] theorem setEnv_lines (s : State) (v) : (s.setEnv v).lines = s.lines := rfl
@[simp] theorem setEnv_env (s : State) (v) : (s.setEnv v).env = v := rfl
@[simp] theorem setEnv_draws (s : State) (v) : (s.setEnv v).draws = s.draws := rfl
@[simp] theorem setEnv_bus (s : State) (v) : (s.setEnv v).bus = s.bus := rfl

/-! ### setDraws -/

@[simp] theorem setDraws_a (s : State) (v) : (s.setDraws v).a = s.a := rfl
@[simp] theorem setDraws_b (s : State) (v) : (s.setDraws v).b = s.b := rfl
@[simp] theorem setDraws_x (s : State) (v) : (s.setDraws v).x = s.x := rfl
@[simp] theorem setDraws_sp (s : State) (v) : (s.setDraws v).sp = s.sp := rfl
@[simp] theorem setDraws_pc (s : State) (v) : (s.setDraws v).pc = s.pc := rfl
@[simp] theorem setDraws_ccr (s : State) (v) : (s.setDraws v).ccr = s.ccr := rfl
@[simp] theorem setDraws_run (s : State) (v) : (s.setDraws v).run = s.run := rfl
@[simp] theorem setDraws_nmiPending (s : State) (v) : (s.setDraws v).nmiPending = s.nmiPending := rfl
@[simp] theorem setDraws_irqInhibit (s : State) (v) : (s.setDraws v).irqInhibit = s.irqInhibit := rfl
@[simp] theorem setDraws_irqLatchedInHalt (s : State) (v) : (s.setDraws v).irqLatchedInHalt = s.irqLatchedInHalt := rfl
@[simp] theorem setDraws_lines (s : State) (v) : (s.setDraws v).lines = s.lines := rfl
@[simp] theorem setDraws_env (s : State) (v) : (s.setDraws v).env = s.env := rfl
@[simp] theorem setDraws_draws (s : State) (v) : (s.setDraws v).draws = v := rfl
@[simp] theorem setDraws_bus (s : State) (v) : (s.setDraws v).bus = s.bus := rfl

/-! ### setBus -/

@[simp] theorem setBus_a (s : State) (v) : (s.setBus v).a = s.a := rfl
@[simp] theorem setBus_b (s : State) (v) : (s.setBus v).b = s.b := rfl
@[simp] theorem setBus_x (s : State) (v) : (s.setBus v).x = s.x := rfl
@[simp] theorem setBus_sp (s : State) (v) : (s.setBus v).sp = s.sp := rfl
@[simp] theorem setBus_pc (s : State) (v) : (s.setBus v).pc = s.pc := rfl
@[simp] theorem setBus_ccr (s : State) (v) : (s.setBus v).ccr = s.ccr := rfl
@[simp] theorem setBus_run (s : State) (v) : (s.setBus v).run = s.run := rfl
@[simp] theorem setBus_nmiPending (s : State) (v) : (s.setBus v).nmiPending = s.nmiPending := rfl
@[simp] theorem setBus_irqInhibit (s : State) (v) : (s.setBus v).irqInhibit = s.irqInhibit := rfl
@[simp] theorem setBus_irqLatchedInHalt (s : State) (v) : (s.setBus v).irqLatchedInHalt = s.irqLatchedInHalt := rfl
@[simp] theorem setBus_lines (s : State) (v) : (s.setBus v).lines = s.lines := rfl
@[simp] theorem setBus_env (s : State) (v) : (s.setBus v).env = s.env := rfl
@[simp] theorem setBus_draws (s : State) (v) : (s.setBus v).draws = s.draws := rfl
@[simp] theorem setBus_bus (s : State) (v) : (s.setBus v).bus = v := rfl

/-! ### setAcc -/

@[simp] theorem acc_a (s : State) : s.acc .a = s.a := rfl
@[simp] theorem acc_b (s : State) : s.acc .b = s.b := rfl
@[simp] theorem setAcc_a_eq (s : State) (v) : s.setAcc .a v = s.setA v := rfl
@[simp] theorem setAcc_b_eq (s : State) (v) : s.setAcc .b v = s.setB v := rfl
@[simp] theorem acc_setAcc (r : Acc) (s : State) (v) : (s.setAcc r v).acc r = v := by cases r <;> rfl
@[simp] theorem setAcc_x (r : Acc) (s : State) (v) : (s.setAcc r v).x = s.x := by cases r <;> rfl
@[simp] theorem setAcc_sp (r : Acc) (s : State) (v) : (s.setAcc r v).sp = s.sp := by cases r <;> rfl
@[simp] theorem setAcc_pc (r : Acc) (s : State) (v) : (s.setAcc r v).pc = s.pc := by cases r <;> rfl
@[simp] theorem setAcc_ccr (r : Acc) (s : State) (v) : (s.setAcc r v).ccr = s.ccr := by cases r <;> rfl
@[simp] theorem setAcc_run (r : Acc) (s : State) (v) : (s.setAcc r v).run = s.run := by cases r <;> rfl
@[simp] theorem setAcc_nmiPending (r : Acc) (s : State) (v) : (s.setAcc r v).nmiPending = s.nmiPending := by cases r <;> rfl
@[simp] theorem setAcc_irqInhibit (r : Acc) (s : State) (v) : (s.setAcc r v).irqInhibit = s.irqInhibit := by cases r <;> rfl
@[simp] theorem setAcc_irqLatchedInHalt (r : Acc) (s : State) (v) : (s.setAcc r v).irqLatchedInHalt = s.irqLatchedInHalt := by cases r <;> rfl
@[simp] theorem setAcc_lines (r : Acc) (s : State) (v) : (s.setAcc r v).lines = s.lines := by cases r <;> rfl
@[simp] theorem setAcc_env (r : Acc) (s : State) (v) : (s.setAcc r v).env = s.env := by cases r <;> rfl
@[simp] theorem setAcc_draws (r : Acc) (s : State) (v) : (s.setAcc r v).draws = s.draws := by cases r <;> rfl
@[simp] theorem setAcc_bus (r : Acc) (s : State) (v) : (s.setAcc r v).bus = s.bus := by cases r <;> rfl
@[simp] theorem acc_setX (r : Acc) (s : State) (v) : (s.setX v).acc r = s.acc r := by cases r <;> rfl
@[simp] theorem acc_setSp (r : Acc) (s : State) (v) : (s.setSp v).acc r = s.acc r := by cases r <;> rfl
@[simp] theorem acc_setPc (r : Acc) (s : State) (v) : (s.setPc v).acc r = s.acc r := by cases r <;> rfl
@[simp] theorem acc_setCcr (r : Acc) (s : State) (v) : (s.setCcr v).acc r = s.acc r := by cases r <;> rfl
@[simp] theorem acc_setRun (r : Acc) (s : State) (v) : (s.setRun v).acc r = s.acc r := by cases r <;> rfl
@[simp] theorem acc_setNmiPending (r : Acc) (s : State) (v) : (s.setNmiPending v).acc r = s.acc r := by cases r <;> rfl
@[simp] theorem acc_setIrqInhibit (r : Acc) (s : State) (v) : (s.setIrqInhibit v).acc r = s.acc r := by cases r <;> rfl
@[simp] theorem acc_setIrqLatchedInHalt (r : Acc) (s : State) (v) : (s.setIrqLatchedInHalt v).acc r = s.acc r := by cases r <;> rfl
@[simp] theorem acc_setLines (r : Acc) (s : State) (v) : (s.setLines v).acc r = s.acc r := by cases r <;> rfl
@[simp] theorem acc_setEnv (r : Acc) (s : State) (v) : (s.setEnv v).acc r = s.acc r := by cases r <;> rfl
@[simp] theorem acc_setDraws (r : Acc) (s : State) (v) : (s.setDraws v).acc r = s.acc r := by cases r <;> rfl
@[simp] theorem acc_setBus (r : Acc) (s : State) (v) : (s.setBus v).acc r = s.acc r := by cases r <;> rfl

end Sys2Proof.Machine.State
end

