-- ==== Sys2Proof/Laws/Bus.lean ====
section
/-! SUPPORT. The laws of the bus. `Bus.Runs` says that one bus comes out of another by cycles of the MPU,
given as rows of the cycle tables; its lemmas say all that such cycles can do to the bus. A proof about an
instruction finds its rows in Laws/Shapes.lean and cites the lemmas of this file. -/

namespace Sys2Proof.Machine

/-! ## Lists of events -/

theorem mpuCycles_append (l k : List BusEvent) :
    mpuCycles (l ++ k) = mpuCycles l ++ mpuCycles k := by
  induction l with
  | nil => rfl
  | cons e rest ih => cases e <;> simp [mpuCycles, ih]

theorem replay_append (p : List Region) (m : Memory) (l k : List BusEvent) :
    replay p m (l ++ k) = replay p (replay p m l) k := by
  induction l generalizing m with
  | nil => rfl
  | cons e rest ih => exact ih _

/-- The other masters' writes among events. -/
def otherWrites (events : List BusEvent) : List (Word × Byte) :=
  events.filterMap fun e => match e with
    | .other addr v => some (addr, v)
    | .cycle _ => none

theorem otherWrites_append (l k : List BusEvent) :
    otherWrites (l ++ k) = otherWrites l ++ otherWrites k := List.filterMap_append

/-- The events of writes by other masters. -/
def asEvents (ws : List (Word × Byte)) : List BusEvent := ws.map (fun w => .other w.1 w.2)

@[simp] theorem mpuCycles_asEvents (ws : List (Word × Byte)) : mpuCycles (asEvents ws) = [] := by
  induction ws with
  | nil => rfl
  | cons w rest ih => exact ih

@[simp] theorem otherWrites_asEvents (ws : List (Word × Byte)) : otherWrites (asEvents ws) = ws := by
  induction ws with
  | nil => rfl
  | cons w rest ih =>
    simp only [asEvents, otherWrites, List.map_cons, List.filterMap_cons] at ih ⊢
    rw [ih]

theorem replay_asEvents (p : List Region) (m : Memory) (ws : List (Word × Byte)) :
    replay p m (asEvents ws) = m.storeAll p ws := by
  induction ws generalizing m with
  | nil => rfl
  | cons w rest ih => exact ih _

/-- One event keeps the canonical form. -/
theorem BusEvent.wf_replay (p : List Region) (m : Memory) (e : BusEvent) (h : m.wf = true) :
    (e.replay p m).wf = true := by
  cases e with
  | other a v => exact Memory.wf_store m p a v h
  | cycle c =>
    simp only [BusEvent.replay]
    split
    · exact Memory.wf_store m p _ _ h
    · exact h

/-- Events keep the canonical form. -/
theorem wf_replay (p : List Region) (l : List BusEvent) (m : Memory) (h : m.wf = true) :
    (replay p m l).wf = true := by
  induction l generalizing m with
  | nil => exact h
  | cons e rest ih => exact ih _ (BusEvent.wf_replay p m e h)

/-- Every read of RAM or ROM among events gets what the writes before it left, from memory `m` on (R70). -/
def ReadsTrue (p : List Region) (m : Memory) : List BusEvent → Prop
  | [] => True
  | .other a v :: rest => ReadsTrue p (m.store p a v) rest
  | .cycle c :: rest =>
    (c.vma = true → c.write = false → kindAt p c.addr = .ram ∨ kindAt p c.addr = .rom →
      c.data = some (m.read c.addr)) ∧ ReadsTrue p ((BusEvent.cycle c).replay p m) rest

theorem readsTrue_append (p : List Region) (m : Memory) (l k : List BusEvent) :
    ReadsTrue p m (l ++ k) ↔ ReadsTrue p m l ∧ ReadsTrue p (replay p m l) k := by
  induction l generalizing m with
  | nil => simp [ReadsTrue, replay]
  | cons e rest ih =>
    cases e with
    | other a v => exact ih _
    | cycle c =>
      simp only [List.cons_append, ReadsTrue, ih, and_assoc]
      rfl

theorem readsTrue_asEvents (p : List Region) (m : Memory) (ws : List (Word × Byte)) :
    ReadsTrue p m (asEvents ws) := by
  induction ws generalizing m with
  | nil => trivial
  | cons w rest ih => exact ih _

/-- What `ReadsTrue` says of one of the cycles. -/
theorem ReadsTrue.at_cycle {p : List Region} {m : Memory} {l before after : List BusEvent}
    {c : BusCycle} (h : ReadsTrue p m l) (hl : l = before ++ .cycle c :: after) (hv : c.vma = true)
    (hw : c.write = false) (hk : kindAt p c.addr = .ram ∨ kindAt p c.addr = .rom) :
    c.data = some ((replay p m before).read c.addr) := by
  subst hl
  rw [readsTrue_append] at h
  exact h.2.1 hv hw hk

/-! ## What the environment does in the cycles to come -/

theorem Untouched.drop {l : List CycleInput} {addr : Word} (h : Untouched l addr) (n : Nat) :
    Untouched (l.drop n) addr := fun c hc => h c (List.mem_of_mem_drop hc)

theorem Untouched.head {l : List CycleInput} {addr : Word} (h : Untouched l addr) :
    ∀ w ∈ (l.headD CycleInput.quiet).others, w.1 ≠ addr := by
  cases l with
  | nil => simp [CycleInput.quiet]
  | cons c rest =>
    rintro w hw rfl
    exact h c List.mem_cons_self (List.mem_map_of_mem hw)

theorem DrivesData.drop {l : List CycleInput} (h : DrivesData l) (n : Nat) : DrivesData (l.drop n) :=
  fun c hc => h c (List.mem_of_mem_drop hc)

theorem DrivesData.head {l : List CycleInput} (h : DrivesData l) :
    (l.headD CycleInput.quiet).dbe = none := by
  cases l with
  | nil => rfl
  | cons c rest => exact h c List.mem_cons_self

@[simp] theorem untouched_nil (addr : Word) : Untouched [] addr := fun _ h => nomatch h
@[simp] theorem drivesData_nil : DrivesData [] := fun _ h => nomatch h

/-! ## One cycle -/

namespace Bus

theorem withOthers_mem (b : Bus) : b.withOthers.mem = b.mem.storeAll b.platform b.input.others := rfl

/-- What one cycle adds to the record. -/
def newEvents (b : Bus) (c : BusCycle) : List BusEvent := asEvents b.input.others ++ [.cycle c]

/-- The read cycle of an address. -/
def readCycle (b : Bus) (addr : Word) : BusCycle :=
  { vma := true, addr := addr, write := false, data := some (b.answer addr)
    dbeLow := b.input.dbe.isSome }

/-- The write cycle of a byte. -/
def writeCycle (b : Bus) (addr : Word) (v : Byte) : BusCycle :=
  { vma := true, addr := addr, write := true, data := some (b.input.dbe.getD v)
    dbeLow := b.input.dbe.isSome }

@[simp] theorem read_platform (b : Bus) (addr : Word) : (b.read addr).platform = b.platform := rfl
@[simp] theorem read_inputs (b : Bus) (addr : Word) : (b.read addr).inputs = b.inputs.tail := rfl
@[simp] theorem read_mem (b : Bus) (addr : Word) : (b.read addr).mem = b.withOthers.mem := rfl
@[simp] theorem read_reads (b : Bus) (addr : Word) : (b.read addr).reads = b.reads + 1 := rfl
theorem read_record (b : Bus) (addr : Word) :
    (b.read addr).record = b.record ++ b.newEvents (b.readCycle addr) :=
  List.append_assoc _ _ _

@[simp] theorem write_platform (b : Bus) (addr : Word) (v : Byte) :
    (b.write addr v).platform = b.platform := rfl
@[simp] theorem write_inputs (b : Bus) (addr : Word) (v : Byte) :
    (b.write addr v).inputs = b.inputs.tail := rfl
@[simp] theorem write_mem (b : Bus) (addr : Word) (v : Byte) :
    (b.write addr v).mem = b.withOthers.mem.store b.platform addr (b.input.dbe.getD v) := rfl
@[simp] theorem write_reads (b : Bus) (addr : Word) (v : Byte) : (b.write addr v).reads = b.reads := rfl
theorem write_record (b : Bus) (addr : Word) (v : Byte) :
    (b.write addr v).record = b.record ++ b.newEvents (b.writeCycle addr v) :=
  List.append_assoc _ _ _

@[simp] theorem internal_platform (b : Bus) (addr : Word) (w : Bool) (d : Option Byte) :
    (b.internal addr w d).platform = b.platform := rfl
@[simp] theorem internal_inputs (b : Bus) (addr : Word) (w : Bool) (d : Option Byte) :
    (b.internal addr w d).inputs = b.inputs.tail := rfl
@[simp] theorem internal_mem (b : Bus) (addr : Word) (w : Bool) (d : Option Byte) :
    (b.internal addr w d).mem = b.withOthers.mem := rfl
@[simp] theorem internal_reads (b : Bus) (addr : Word) (w : Bool) (d : Option Byte) :
    (b.internal addr w d).reads = b.reads := rfl
theorem internal_record (b : Bus) (addr : Word) (w : Bool) (d : Option Byte) :
    (b.internal addr w d).record = b.record ++ b.newEvents
      { vma := false, addr := addr, write := w, data := d, dbeLow := b.input.dbe.isSome } :=
  List.append_assoc _ _ _

theorem read_of_untouched {b : Bus} {addr : Word} (h : Untouched b.inputs addr) :
    b.withOthers.mem.read addr = b.mem.read addr :=
  Memory.read_storeAll_of_ne _ _ _ _ h.head

/-- In a quiet cycle a read of memory gets the byte there. -/
theorem answer_of_memory {b : Bus} {addr : Word}
    (h : kindAt b.platform addr = .ram ∨ kindAt b.platform addr = .rom) :
    b.answer addr = b.withOthers.mem.read addr := by
  unfold answer
  rcases h with h | h <;> rw [h]

/-! ## Cycles in a row -/

/-- The bus `c` comes out of the bus `b` by cycles of the MPU with these rows. -/
inductive Runs (b : Bus) : List Row → Bus → Prop
  /-- No cycle. -/
  | refl : Runs b [] b
  /-- One more read cycle. -/
  | read {rows : List Row} {c : Bus} (addr : Word) (h : Runs b rows c) :
    Runs b (rows ++ [.read addr]) (c.read addr)
  /-- One more write cycle. -/
  | write {rows : List Row} {c : Bus} (addr : Word) (v : Byte) (h : Runs b rows c) :
    Runs b (rows ++ [.write addr v]) (c.write addr v)
  /-- One more cycle without an access. -/
  | none {rows : List Row} {c : Bus} (addr : Word) (h : Runs b rows c) :
    Runs b (rows ++ [.none addr]) (c.internal addr false .none)
  /-- The last cycle of TST. -/
  | noWrite {rows : List Row} {c : Bus} (addr : Word) (h : Runs b rows c) :
    Runs b (rows ++ [.noWrite addr]) (c.internal addr true .none)
  /-- The last cycle of PSH. -/
  | shows {rows : List Row} {c : Bus} (addr : Word) (v : Byte) (h : Runs b rows c) :
    Runs b (rows ++ [.shows addr v]) (c.internal addr false (some v))

theorem Runs.trans {b c d : Bus} {rows more : List Row} (h : Runs b rows c) (k : Runs c more d) :
    Runs b (rows ++ more) d := by
  induction k with
  | refl => simpa using h
  | read addr _ ih => rw [← List.append_assoc]; exact ih.read addr
  | write addr v _ ih => rw [← List.append_assoc]; exact ih.write addr v
  | none addr _ ih => rw [← List.append_assoc]; exact ih.none addr
  | noWrite addr _ ih => rw [← List.append_assoc]; exact ih.noWrite addr
  | shows addr v _ ih => rw [← List.append_assoc]; exact ih.shows addr v

end Bus

/-- The write of a row. -/
def Row.written : Row → Option (Word × Byte)
  | .write addr v => some (addr, v)
  | _ => Option.none

/-- The address that a row reads. -/
def Row.readAddr : Row → Option Word
  | .read addr => some addr
  | _ => Option.none

@[simp] theorem Row.written_read (addr : Word) : (Row.read addr).written = Option.none := rfl
@[simp] theorem Row.written_write (addr : Word) (v : Byte) :
    (Row.write addr v).written = some (addr, v) := rfl
@[simp] theorem Row.written_none (addr : Word) : (Row.none addr).written = Option.none := rfl
@[simp] theorem Row.written_noWrite (addr : Word) : (Row.noWrite addr).written = Option.none := rfl
@[simp] theorem Row.written_shows (addr : Word) (v : Byte) :
    (Row.shows addr v).written = Option.none := rfl

namespace Bus

/-- What `Runs` says of the events `new` that it adds to the record. -/
structure Added (b : Bus) (rows : List Row) (c : Bus) (new : List BusEvent) : Prop where
  record : c.record = b.record ++ new
  platform : c.platform = b.platform
  inputs : c.inputs = b.inputs.drop rows.length
  mem : c.mem = replay b.platform b.mem new
  fits : List.Forall₂ Row.Fits rows (mpuCycles new)
  others : otherWrites new = (b.inputs.take rows.length).flatMap CycleInput.others
  reads : ReadsTrue b.platform b.mem new
  writes : (mpuWrites new).map Prod.fst = (rows.filterMap Row.written).map Prod.fst
  driven : DrivesData b.inputs → mpuWrites new = rows.filterMap Row.written
  readAddrs : (mpuReads new).map Prod.fst = rows.filterMap Row.readAddr

theorem mpuWrites_append (l k : List BusEvent) : mpuWrites (l ++ k) = mpuWrites l ++ mpuWrites k := by
  simp [mpuWrites, mpuCycles_append]

theorem mpuReads_append (l k : List BusEvent) : mpuReads (l ++ k) = mpuReads l ++ mpuReads k := by
  simp [mpuReads, mpuCycles_append]

theorem forall₂_snoc {α β : Type} {R : α → β → Prop} {l : List α} {k : List β} {a : α} {b : β}
    (h : List.Forall₂ R l k) (hab : R a b) : List.Forall₂ R (l ++ [a]) (k ++ [b]) := by
  induction h with
  | nil => exact .cons hab .nil
  | cons h1 _ ih => exact .cons h1 ih

theorem take_succ_headD_flatMap (l : List CycleInput) (n : Nat) :
    (l.take (n + 1)).flatMap CycleInput.others =
      (l.take n).flatMap CycleInput.others ++ ((l.drop n).headD CycleInput.quiet).others := by
  induction l generalizing n with
  | nil => simp [CycleInput.quiet]
  | cons c rest ih =>
    cases n with
    | zero => simp
    | succ k => simp only [List.take_succ_cons, List.flatMap_cons, ih, List.append_assoc,
        List.drop_succ_cons]

/-- One more cycle adds its events. -/
theorem Added.snoc {b c d : Bus} {rows : List Row} {new : List BusEvent} (h : Added b rows c new)
    {row : Row} {cyc : BusCycle} (hr : d.record = c.record ++ c.newEvents cyc)
    (hp : d.platform = c.platform) (hi : d.inputs = c.inputs.tail)
    (hm : d.mem = (BusEvent.cycle cyc).replay c.platform c.withOthers.mem) (hf : row.Fits cyc)
    (ht : cyc.vma = true → cyc.write = false → kindAt c.platform cyc.addr = .ram ∨
      kindAt c.platform cyc.addr = .rom → cyc.data = some (c.withOthers.mem.read cyc.addr))
    (hw : (mpuWrites [.cycle cyc]).map Prod.fst = ([row].filterMap Row.written).map Prod.fst)
    (hd : c.input.dbe = none → mpuWrites [.cycle cyc] = [row].filterMap Row.written)
    (hra : (mpuReads [.cycle cyc]).map Prod.fst = [row].filterMap Row.readAddr) :
    Added b (rows ++ [row]) d (new ++ c.newEvents cyc) := by
  have hmem : c.withOthers.mem = replay b.platform b.mem (new ++ asEvents c.input.others) := by
    rw [withOthers_mem, replay_append, ← h.mem, replay_asEvents, h.platform]
  have hwe : ∀ ws, mpuWrites (asEvents ws) = [] := fun ws => by simp [mpuWrites]
  have hre : ∀ ws, mpuReads (asEvents ws) = [] := fun ws => by simp [mpuReads]
  constructor
  · rw [hr, h.record, List.append_assoc]
  · rw [hp, h.platform]
  · rw [hi, h.inputs]; simp [List.tail_drop]
  · rw [hm, hmem, h.platform, newEvents, ← List.append_assoc, replay_append _ _ (_ ++ _)]; rfl
  · rw [newEvents, mpuCycles_append, mpuCycles_append, mpuCycles_asEvents, List.nil_append]
    exact forall₂_snoc h.fits hf
  · rw [newEvents, otherWrites_append, otherWrites_append, otherWrites_asEvents, h.others,
      List.length_append, List.length_singleton, take_succ_headD_flatMap, input, h.inputs]
    simp [otherWrites]
  · rw [newEvents, ← List.append_assoc, readsTrue_append, readsTrue_append, ← hmem]
    refine ⟨⟨h.reads, readsTrue_asEvents _ _ _⟩, ?_, trivial⟩
    rw [← h.platform]; exact ht
  · simp only [newEvents, mpuWrites_append, hwe, List.nil_append, List.map_append, h.writes, hw,
      List.filterMap_append]
  · intro hdr
    have := hdr.drop rows.length
    rw [newEvents, mpuWrites_append, mpuWrites_append, hwe, List.nil_append, h.driven hdr,
      hd (by rw [input, h.inputs]; exact this.head), List.filterMap_append]
  · simp only [newEvents, mpuReads_append, hre, List.nil_append, List.map_append, h.readAddrs, hra,
      List.filterMap_append]

/-- All that cycles of the MPU do to the bus. -/
theorem Runs.added {b c : Bus} {rows : List Row} (h : Runs b rows c) : ∃ new, Added b rows c new := by
  induction h with
  | refl =>
    exact ⟨[], by simp, rfl, by simp, rfl, .nil, by simp [otherWrites], trivial, rfl, fun _ => rfl,
      rfl⟩
  | read addr _ ih =>
    obtain ⟨new, ih⟩ := ih
    exact ⟨_, ih.snoc (read_record _ addr) rfl rfl rfl (by simp [Row.Fits, readCycle])
      (fun _ _ hk => congrArg some (answer_of_memory hk)) rfl (fun _ => rfl) rfl⟩
  | write addr v _ ih =>
    obtain ⟨new, ih⟩ := ih
    exact ⟨_, ih.snoc (write_record _ addr v) rfl rfl rfl
      (by simp [Row.Fits, writeCycle]; intro h; simp [h]) (fun _ h => nomatch h) rfl
      (fun hd => by simp [mpuWrites, mpuCycles, Row.written, writeCycle, hd]) rfl⟩
  | none addr _ ih =>
    obtain ⟨new, ih⟩ := ih
    exact ⟨_, ih.snoc (internal_record _ addr _ _) rfl rfl rfl (by simp [Row.Fits])
      (fun h => nomatch h) rfl (fun _ => rfl) rfl⟩
  | noWrite addr _ ih =>
    obtain ⟨new, ih⟩ := ih
    exact ⟨_, ih.snoc (internal_record _ addr _ _) rfl rfl rfl (by simp [Row.Fits])
      (fun h => nomatch h) rfl (fun _ => rfl) rfl⟩
  | shows addr v _ ih =>
    obtain ⟨new, ih⟩ := ih
    exact ⟨_, ih.snoc (internal_record _ addr _ _) rfl rfl rfl (by simp [Row.Fits])
      (fun h => nomatch h) rfl (fun _ => rfl) rfl⟩

theorem Runs.platform {b c : Bus} {rows : List Row} (h : Runs b rows c) : c.platform = b.platform :=
  h.added.choose_spec.platform

theorem Runs.inputs {b c : Bus} {rows : List Row} (h : Runs b rows c) :
    c.inputs = b.inputs.drop rows.length := h.added.choose_spec.inputs

/-- Cycles keep the canonical form. -/
theorem Runs.mem_wf {b c : Bus} {rows : List Row} (h : Runs b rows c) (hb : b.mem.wf = true) :
    c.mem.wf = true := by
  obtain ⟨new, hn⟩ := h.added
  rw [hn.mem]; exact wf_replay _ _ _ hb

/-- A byte that no other master writes, and that no row writes or that is no RAM, stays. -/
theorem Runs.read_of_not_written {b c : Bus} {rows : List Row} (h : Runs b rows c) {addr : Word}
    (hu : Untouched b.inputs addr)
    (hw : addr ∉ (rows.filterMap Row.written).map Prod.fst ∨ kindAt b.platform addr ≠ .ram) :
    c.mem.read addr = b.mem.read addr := by
  have hadm : ∀ {c : Bus} {rows : List Row}, Runs b rows c →
      c.withOthers.mem.read addr = c.mem.read addr := fun h => by
    apply read_of_untouched; rw [h.inputs]; exact hu.drop _
  induction h with
  | refl => rfl
  | write a v k ih =>
    simp only [List.filterMap_append, List.map_append, List.mem_append, not_or] at hw
    rw [write_mem, Memory.read_store, if_neg, hadm k, ih (hw.imp And.left id)]
    rintro ⟨rfl, hk⟩
    rw [k.platform] at hk
    exact hw.elim (fun h => h.2 (by simp)) (fun h => h hk)
  | read a k ih | none a k ih | noWrite a k ih | shows a v k ih =>
    refine (hadm k).trans (ih ?_)
    simpa using hw

/-- A byte that a row writes stays where RAM is and nobody else drives the bus; no address is written
twice. -/
theorem Runs.read_of_written {b c : Bus} {rows : List Row} (h : Runs b rows c)
    (hn : ((rows.filterMap Row.written).map Prod.fst).Nodup) {w : Word × Byte}
    (hw : w ∈ rows.filterMap Row.written) (hk : kindAt b.platform w.1 = .ram)
    (hu : Untouched b.inputs w.1) (hd : DrivesData b.inputs) : c.mem.read w.1 = w.2 := by
  have hadm : ∀ {c : Bus} {rows : List Row}, Runs b rows c →
      c.withOthers.mem.read w.1 = c.mem.read w.1 := fun h => by
    apply read_of_untouched; rw [h.inputs]; exact hu.drop _
  induction h with
  | refl => simp at hw
  | write a v k ih =>
    simp only [List.filterMap_append, List.map_append, List.filterMap_cons, List.filterMap_nil,
      Row.written_write, List.map_cons, List.map_nil, List.mem_append, List.mem_singleton] at hw hn
    have hnone : ∀ {c : Bus} {rows : List Row}, Runs b rows c → c.input.dbe = .none := fun h => by
      rw [input, h.inputs]; exact (hd.drop _).head
    rw [write_mem, Memory.read_store]
    rcases hw with hw | hw
    · rw [if_neg, hadm k, ih (List.nodup_append.1 hn).1 hw]
      rintro ⟨rfl, -⟩
      exact (List.nodup_append.1 hn).2.2 w.1 (List.mem_map_of_mem hw) w.1
        (by simp) rfl
    · subst hw
      simp [k.platform, hk, hnone k]
  | read a k ih | none a k ih | noWrite a k ih | shows a v k ih =>
    refine (hadm k).trans (ih ?_ ?_)
    · simpa [List.filterMap_cons] using hn
    · simpa using hw

end Bus

/-! ## Claims about what is stored, read and shown -/

/-- What rows of cycles store, and that they store nothing else. -/
theorem Stores.of_runs {s t : State} {rows : List Row} (h : s.bus.Runs rows t.bus)
    (hn : ((rows.filterMap Row.written).map Prod.fst).Nodup) :
    Stores (rows.filterMap Row.written) s t := by
  obtain ⟨new, ha⟩ := h.added
  exact ⟨⟨new, ha.record, ha.writes, ha.driven⟩,
    fun w hw hs => h.read_of_written hn hw hs.1 hs.2.1 hs.2.2,
    fun addr hu hw => h.read_of_not_written hu hw, ha.platform⟩

/-- Rows without a write store nothing. -/
theorem Stores.nil_of_runs {s t : State} {rows : List Row} (h : s.bus.Runs rows t.bus)
    (hr : rows.filterMap Row.written = []) : Stores [] s t := by
  have := Stores.of_runs h (by simp [hr])
  rwa [hr] at this

theorem CyclesFit.of_runs {s t : State} {rows : List Row} (h : s.bus.Runs rows t.bus) :
    CyclesFit rows s t := by
  obtain ⟨new, ha⟩ := h.added
  exact ⟨new, ha.record, ha.fits, fun _ _ _ => ha.reads.at_cycle⟩

theorem Reads.nil_of_runs {s t : State} {rows : List Row} (h : s.bus.Runs rows t.bus) :
    Reads [] s t := by
  obtain ⟨new, ha⟩ := h.added
  exact ⟨⟨new, mpuReads new, ha.record, (List.append_nil _).symm⟩, fun _ h => nomatch h⟩

/-- One more read. -/
theorem Reads.readCycle {s t : State} {rs : List (Word × Byte)} {rows : List Row} (h : Reads rs s t)
    (k : s.bus.Runs rows t.bus) (addr : Word) :
    Reads (rs ++ [(addr, t.readData addr)]) s (t.readCycle addr) := by
  obtain ⟨⟨new, before, hr, hb⟩, hm⟩ := h
  have hadm : ∀ a, Untouched s.bus.inputs a → t.bus.withOthers.mem.read a = t.mem.read a := fun a ha =>
    Bus.read_of_untouched (k.inputs ▸ ha.drop _)
  refine ⟨⟨new ++ t.bus.newEvents (t.bus.readCycle addr), before, ?_, ?_⟩, ?_⟩
  · show (t.bus.read addr).record = _
    rw [Bus.read_record, hr, List.append_assoc]
  · rw [Bus.mpuReads_append, hb, List.append_assoc]
    simp [mpuReads, Bus.newEvents, mpuCycles_append, mpuCycles, Bus.readCycle, State.readData]
  · intro r hr' hs
    rcases List.mem_append.1 hr' with hr' | hr'
    · exact (hm r hr' hs).trans (hadm _ hs.2).symm
    · rw [List.mem_singleton] at hr'
      subst hr'
      have hin := hs.1
      simp only [InMemory, ← k.platform] at hin
      exact Bus.answer_of_memory hin

/-- What is stored is a matter of the bus alone. -/
theorem Stores.congr {ws : List (Word × Byte)} {s t s' t' : State} (h : Stores ws s t)
    (hs : s'.bus = s.bus) (ht : t'.bus = t.bus) : Stores ws s' t' := by
  unfold Stores StoresMemory at *
  simp only [State.mem, hs, ht] at *
  exact h

/-- What is read is a matter of the bus alone. -/
theorem Reads.congr {rs : List (Word × Byte)} {s t s' t' : State} (h : Reads rs s t)
    (hs : s'.bus = s.bus) (ht : t'.bus = t.bus) : Reads rs s' t' := by
  unfold Reads ReadsMemory InMemory at *
  simp only [State.mem, hs, ht] at *
  exact h

/-- A vector load is a matter of the bus and PC. -/
theorem LoadsVector.congr {addr : Word} {s t s' t' : State} (h : LoadsVector addr s t)
    (hs : s'.bus = s.bus) (ht : t'.bus = t.bus) (hp : t'.pc = t.pc) : LoadsVector addr s' t' := by
  obtain ⟨hi, lo, hr, hv⟩ := h
  exact ⟨hi, lo, hr.congr hs ht, hp.trans hv⟩

/-- The two reads of a vector, after other cycles. -/
theorem LoadsVector.of_runs {s t : State} {rows : List Row} (h : s.bus.Runs rows t.bus)
    (v : InterruptVector) : LoadsVector v.addr s (t.loadVector v) :=
  ⟨_, _, ((Reads.nil_of_runs h).readCycle h v.addr).readCycle (h.read v.addr) (v.addr + 1), rfl⟩

end Sys2Proof.Machine
end

