-- ==== Sys2Proof/Laws/Bytes.lean ====
section
/-! SUPPORT. The byte-order helpers: a 16-bit value is its high byte and its low byte (R46). -/

namespace Sys2Proof

/-- `hi : lo` as a number. -/
theorem joinBytes_toNat (h l : Byte) : (joinBytes h l).toNat = h.toNat * 256 + l.toNat := by
  have e : (joinBytes h l).toNat = h.toNat <<< 8 ||| l.toNat := BitVec.toNat_append h l
  rw [e, ← Nat.shiftLeft_add_eq_or_of_lt l.isLt, Nat.shiftLeft_eq]

theorem hi8_toNat (w : Word) : (hi8 w).toNat = w.toNat / 256 := by
  simp [hi8, Nat.shiftRight_eq_div_pow]; have := w.isLt; omega

theorem lo8_toNat (w : Word) : (lo8 w).toNat = w.toNat % 256 := by
  simp [lo8]

@[simp] theorem hi8_joinBytes (h l : Byte) : hi8 (joinBytes h l) = h := by
  apply BitVec.eq_of_toNat_eq; rw [hi8_toNat, joinBytes_toNat]; have := l.isLt; omega

@[simp] theorem lo8_joinBytes (h l : Byte) : lo8 (joinBytes h l) = l := by
  apply BitVec.eq_of_toNat_eq; rw [lo8_toNat, joinBytes_toNat]; have := l.isLt; omega

@[simp] theorem joinBytes_hi8_lo8 (w : Word) : joinBytes (hi8 w) (lo8 w) = w := by
  apply BitVec.eq_of_toNat_eq; rw [joinBytes_toNat, hi8_toNat, lo8_toNat]; omega
end Sys2Proof
end

