-- ==== Sys2Proof/Laws/Ops.lean ====
section
/-! SUPPORT. What each shared operation does: the fields it keeps and those it writes, and the rows of its
bus cycles. Proofs cite these lemmas and do not unfold the operation. -/

namespace Sys2Proof.Machine.State

theorem sub_one_sub_one (w : Word) : w - 1 - 1 = w - 2 := sub_sub w 1 1
theorem sub_two_sub_one (w : Word) : w - 2 - 1 = w - 3 := sub_sub w 2 1
theorem sub_two_sub_two (w : Word) : w - 2 - 2 = w - 4 := sub_sub w 2 2
theorem sub_four_sub_one (w : Word) : w - 4 - 1 = w - 5 := sub_sub w 4 1
theorem sub_five_sub_one (w : Word) : w - 5 - 1 = w - 6 := sub_sub w 5 1
theorem sub_six_sub_one (w : Word) : w - 6 - 1 = w - 7 := sub_sub w 6 1
theorem add_one_add_one (w : Word) : w + 1 + 1 = w + 2 := add_assoc w 1 1

/-! ### readCycle -/

@[simp] theorem readCycle_a (s : State) (addr : Word) : (s.readCycle addr).a = s.a := rfl
@[simp] theorem readCycle_b (s : State) (addr : Word) : (s.readCycle addr).b = s.b := rfl
@[simp] theorem readCycle_x (s : State) (addr : Word) : (s.readCycle addr).x = s.x := rfl
@[simp] theorem readCycle_sp (s : State) (addr : Word) : (s.readCycle addr).sp = s.sp := rfl
@[simp] theorem readCycle_pc (s : State) (addr : Word) : (s.readCycle addr).pc = s.pc := rfl
@[simp] theorem readCycle_ccr (s : State) (addr : Word) : (s.readCycle addr).ccr = s.ccr := rfl
@[simp] theorem readCycle_run (s : State) (addr : Word) : (s.readCycle addr).run = s.run := rfl
@[simp] theorem readCycle_nmiPending (s : State) (addr : Word) : (s.readCycle addr).nmiPending = s.nmiPending := rfl
@[simp] theorem readCycle_irqInhibit (s : State) (addr : Word) : (s.readCycle addr).irqInhibit = s.irqInhibit := rfl
@[simp] theorem readCycle_irqLatchedInHalt (s : State) (addr : Word) : (s.readCycle addr).irqLatchedInHalt = s.irqLatchedInHalt := rfl
@[simp] theorem readCycle_lines (s : State) (addr : Word) : (s.readCycle addr).lines = s.lines := rfl
@[simp] theorem readCycle_env (s : State) (addr : Word) : (s.readCycle addr).env = s.env := rfl
@[simp] theorem readCycle_draws (s : State) (addr : Word) : (s.readCycle addr).draws = s.draws := rfl
@[simp] theorem acc_readCycle (r : Acc) (s : State) (addr : Word) : (s.readCycle addr).acc r = s.acc r := by cases r <;> simp [acc]

theorem readCycle_runs (s : State) (addr : Word) :
    s.bus.Runs [.read addr] (s.readCycle addr).bus := Bus.Runs.refl.read addr

/-! ### writeByte -/

@[simp] theorem writeByte_a (s : State) (addr : Word) (v : Byte) : (s.writeByte addr v).a = s.a := rfl
@[simp] theorem writeByte_b (s : State) (addr : Word) (v : Byte) : (s.writeByte addr v).b = s.b := rfl
@[simp] theorem writeByte_x (s : State) (addr : Word) (v : Byte) : (s.writeByte addr v).x = s.x := rfl
@[simp] theorem writeByte_sp (s : State) (addr : Word) (v : Byte) : (s.writeByte addr v).sp = s.sp := rfl
@[simp] theorem writeByte_pc (s : State) (addr : Word) (v : Byte) : (s.writeByte addr v).pc = s.pc := rfl
@[simp] theorem writeByte_ccr (s : State) (addr : Word) (v : Byte) : (s.writeByte addr v).ccr = s.ccr := rfl
@[simp] theorem writeByte_run (s : State) (addr : Word) (v : Byte) : (s.writeByte addr v).run = s.run := rfl
@[simp] theorem writeByte_nmiPending (s : State) (addr : Word) (v : Byte) : (s.writeByte addr v).nmiPending = s.nmiPending := rfl
@[simp] theorem writeByte_irqInhibit (s : State) (addr : Word) (v : Byte) : (s.writeByte addr v).irqInhibit = s.irqInhibit := rfl
@[simp] theorem writeByte_irqLatchedInHalt (s : State) (addr : Word) (v : Byte) : (s.writeByte addr v).irqLatchedInHalt = s.irqLatchedInHalt := rfl
@[simp] theorem writeByte_lines (s : State) (addr : Word) (v : Byte) : (s.writeByte addr v).lines = s.lines := rfl
@[simp] theorem writeByte_env (s : State) (addr : Word) (v : Byte) : (s.writeByte addr v).env = s.env := rfl
@[simp] theorem writeByte_draws (s : State) (addr : Word) (v : Byte) : (s.writeByte addr v).draws = s.draws := rfl
@[simp] theorem acc_writeByte (r : Acc) (s : State) (addr : Word) (v : Byte) : (s.writeByte addr v).acc r = s.acc r := by cases r <;> simp [acc]

theorem writeByte_runs (s : State) (addr : Word) (v : Byte) :
    s.bus.Runs [.write addr v] (s.writeByte addr v).bus := Bus.Runs.refl.write addr v

/-! ### idle -/

@[simp] theorem idle_a (s : State) (addr : Word) : (s.idle addr).a = s.a := rfl
@[simp] theorem idle_b (s : State) (addr : Word) : (s.idle addr).b = s.b := rfl
@[simp] theorem idle_x (s : State) (addr : Word) : (s.idle addr).x = s.x := rfl
@[simp] theorem idle_sp (s : State) (addr : Word) : (s.idle addr).sp = s.sp := rfl
@[simp] theorem idle_pc (s : State) (addr : Word) : (s.idle addr).pc = s.pc := rfl
@[simp] theorem idle_ccr (s : State) (addr : Word) : (s.idle addr).ccr = s.ccr := rfl
@[simp] theorem idle_run (s : State) (addr : Word) : (s.idle addr).run = s.run := rfl
@[simp] theorem idle_nmiPending (s : State) (addr : Word) : (s.idle addr).nmiPending = s.nmiPending := rfl
@[simp] theorem idle_irqInhibit (s : State) (addr : Word) : (s.idle addr).irqInhibit = s.irqInhibit := rfl
@[simp] theorem idle_irqLatchedInHalt (s : State) (addr : Word) : (s.idle addr).irqLatchedInHalt = s.irqLatchedInHalt := rfl
@[simp] theorem idle_lines (s : State) (addr : Word) : (s.idle addr).lines = s.lines := rfl
@[simp] theorem idle_env (s : State) (addr : Word) : (s.idle addr).env = s.env := rfl
@[simp] theorem idle_draws (s : State) (addr : Word) : (s.idle addr).draws = s.draws := rfl
@[simp] theorem acc_idle (r : Acc) (s : State) (addr : Word) : (s.idle addr).acc r = s.acc r := by cases r <;> simp [acc]

theorem idle_runs (s : State) (addr : Word) : s.bus.Runs [.none addr] (s.idle addr).bus :=
  Bus.Runs.refl.none addr

/-! ### readWordCycles -/

@[simp] theorem readWordCycles_a (s : State) (addr : Word) : (s.readWordCycles addr).a = s.a := rfl
@[simp] theorem readWordCycles_b (s : State) (addr : Word) : (s.readWordCycles addr).b = s.b := rfl
@[simp] theorem readWordCycles_x (s : State) (addr : Word) : (s.readWordCycles addr).x = s.x := rfl
@[simp] theorem readWordCycles_sp (s : State) (addr : Word) : (s.readWordCycles addr).sp = s.sp := rfl
@[simp] theorem readWordCycles_pc (s : State) (addr : Word) : (s.readWordCycles addr).pc = s.pc := rfl
@[simp] theorem readWordCycles_ccr (s : State) (addr : Word) : (s.readWordCycles addr).ccr = s.ccr := rfl
@[simp] theorem readWordCycles_run (s : State) (addr : Word) : (s.readWordCycles addr).run = s.run := rfl
@[simp] theorem readWordCycles_nmiPending (s : State) (addr : Word) : (s.readWordCycles addr).nmiPending = s.nmiPending := rfl
@[simp] theorem readWordCycles_irqInhibit (s : State) (addr : Word) : (s.readWordCycles addr).irqInhibit = s.irqInhibit := rfl
@[simp] theorem readWordCycles_irqLatchedInHalt (s : State) (addr : Word) : (s.readWordCycles addr).irqLatchedInHalt = s.irqLatchedInHalt := rfl
@[simp] theorem readWordCycles_lines (s : State) (addr : Word) : (s.readWordCycles addr).lines = s.lines := rfl
@[simp] theorem readWordCycles_env (s : State) (addr : Word) : (s.readWordCycles addr).env = s.env := rfl
@[simp] theorem readWordCycles_draws (s : State) (addr : Word) : (s.readWordCycles addr).draws = s.draws := rfl
@[simp] theorem acc_readWordCycles (r : Acc) (s : State) (addr : Word) : (s.readWordCycles addr).acc r = s.acc r := by cases r <;> simp [acc]

theorem readWordCycles_runs (s : State) (addr : Word) :
    s.bus.Runs [.read addr, .read (addr + 1)] (s.readWordCycles addr).bus :=
  (s.readCycle_runs addr).read (addr + 1)

/-! ### writeWord -/

@[simp] theorem writeWord_a (s : State) (addr v : Word) : (s.writeWord addr v).a = s.a := rfl
@[simp] theorem writeWord_b (s : State) (addr v : Word) : (s.writeWord addr v).b = s.b := rfl
@[simp] theorem writeWord_x (s : State) (addr v : Word) : (s.writeWord addr v).x = s.x := rfl
@[simp] theorem writeWord_sp (s : State) (addr v : Word) : (s.writeWord addr v).sp = s.sp := rfl
@[simp] theorem writeWord_pc (s : State) (addr v : Word) : (s.writeWord addr v).pc = s.pc := rfl
@[simp] theorem writeWord_ccr (s : State) (addr v : Word) : (s.writeWord addr v).ccr = s.ccr := rfl
@[simp] theorem writeWord_run (s : State) (addr v : Word) : (s.writeWord addr v).run = s.run := rfl
@[simp] theorem writeWord_nmiPending (s : State) (addr v : Word) : (s.writeWord addr v).nmiPending = s.nmiPending := rfl
@[simp] theorem writeWord_irqInhibit (s : State) (addr v : Word) : (s.writeWord addr v).irqInhibit = s.irqInhibit := rfl
@[simp] theorem writeWord_irqLatchedInHalt (s : State) (addr v : Word) : (s.writeWord addr v).irqLatchedInHalt = s.irqLatchedInHalt := rfl
@[simp] theorem writeWord_lines (s : State) (addr v : Word) : (s.writeWord addr v).lines = s.lines := rfl
@[simp] theorem writeWord_env (s : State) (addr v : Word) : (s.writeWord addr v).env = s.env := rfl
@[simp] theorem writeWord_draws (s : State) (addr v : Word) : (s.writeWord addr v).draws = s.draws := rfl
@[simp] theorem acc_writeWord (r : Acc) (s : State) (addr v : Word) : (s.writeWord addr v).acc r = s.acc r := by cases r <;> simp [acc]

theorem writeWord_runs (s : State) (addr v : Word) :
    s.bus.Runs [.write addr (hi8 v), .write (addr + 1) (lo8 v)] (s.writeWord addr v).bus :=
  (s.writeByte_runs addr (hi8 v)).write (addr + 1) (lo8 v)

/-! ### fetch8 -/

@[simp] theorem fetch8_a (s : State) : (s.fetch8).a = s.a := rfl
@[simp] theorem fetch8_b (s : State) : (s.fetch8).b = s.b := rfl
@[simp] theorem fetch8_x (s : State) : (s.fetch8).x = s.x := rfl
@[simp] theorem fetch8_sp (s : State) : (s.fetch8).sp = s.sp := rfl
@[simp] theorem fetch8_ccr (s : State) : (s.fetch8).ccr = s.ccr := rfl
@[simp] theorem fetch8_run (s : State) : (s.fetch8).run = s.run := rfl
@[simp] theorem fetch8_nmiPending (s : State) : (s.fetch8).nmiPending = s.nmiPending := rfl
@[simp] theorem fetch8_irqInhibit (s : State) : (s.fetch8).irqInhibit = s.irqInhibit := rfl
@[simp] theorem fetch8_irqLatchedInHalt (s : State) : (s.fetch8).irqLatchedInHalt = s.irqLatchedInHalt := rfl
@[simp] theorem fetch8_lines (s : State) : (s.fetch8).lines = s.lines := rfl
@[simp] theorem fetch8_env (s : State) : (s.fetch8).env = s.env := rfl
@[simp] theorem fetch8_draws (s : State) : (s.fetch8).draws = s.draws := rfl
@[simp] theorem acc_fetch8 (r : Acc) (s : State) : (s.fetch8).acc r = s.acc r := by cases r <;> simp [acc]

@[simp] theorem fetch8_pc (s : State) : s.fetch8.pc = s.pc + 1 := rfl
theorem fetch8_runs (s : State) : s.bus.Runs [.read s.pc] s.fetch8.bus := s.readCycle_runs s.pc

/-! ### dummyRead -/

@[simp] theorem dummyRead_a (s : State) : (s.dummyRead).a = s.a := rfl
@[simp] theorem dummyRead_b (s : State) : (s.dummyRead).b = s.b := rfl
@[simp] theorem dummyRead_x (s : State) : (s.dummyRead).x = s.x := rfl
@[simp] theorem dummyRead_sp (s : State) : (s.dummyRead).sp = s.sp := rfl
@[simp] theorem dummyRead_pc (s : State) : (s.dummyRead).pc = s.pc := rfl
@[simp] theorem dummyRead_ccr (s : State) : (s.dummyRead).ccr = s.ccr := rfl
@[simp] theorem dummyRead_run (s : State) : (s.dummyRead).run = s.run := rfl
@[simp] theorem dummyRead_nmiPending (s : State) : (s.dummyRead).nmiPending = s.nmiPending := rfl
@[simp] theorem dummyRead_irqInhibit (s : State) : (s.dummyRead).irqInhibit = s.irqInhibit := rfl
@[simp] theorem dummyRead_irqLatchedInHalt (s : State) : (s.dummyRead).irqLatchedInHalt = s.irqLatchedInHalt := rfl
@[simp] theorem dummyRead_lines (s : State) : (s.dummyRead).lines = s.lines := rfl
@[simp] theorem dummyRead_env (s : State) : (s.dummyRead).env = s.env := rfl
@[simp] theorem dummyRead_draws (s : State) : (s.dummyRead).draws = s.draws := rfl
@[simp] theorem acc_dummyRead (r : Acc) (s : State) : (s.dummyRead).acc r = s.acc r := by cases r <;> simp [acc]

theorem dummyRead_runs (s : State) : s.bus.Runs [.read s.pc] s.dummyRead.bus :=
  s.readCycle_runs s.pc

/-! ### push8 -/

@[simp] theorem push8_a (s : State) (v : Byte) : (s.push8 v).a = s.a := rfl
@[simp] theorem push8_b (s : State) (v : Byte) : (s.push8 v).b = s.b := rfl
@[simp] theorem push8_x (s : State) (v : Byte) : (s.push8 v).x = s.x := rfl
@[simp] theorem push8_pc (s : State) (v : Byte) : (s.push8 v).pc = s.pc := rfl
@[simp] theorem push8_ccr (s : State) (v : Byte) : (s.push8 v).ccr = s.ccr := rfl
@[simp] theorem push8_run (s : State) (v : Byte) : (s.push8 v).run = s.run := rfl
@[simp] theorem push8_nmiPending (s : State) (v : Byte) : (s.push8 v).nmiPending = s.nmiPending := rfl
@[simp] theorem push8_irqInhibit (s : State) (v : Byte) : (s.push8 v).irqInhibit = s.irqInhibit := rfl
@[simp] theorem push8_irqLatchedInHalt (s : State) (v : Byte) : (s.push8 v).irqLatchedInHalt = s.irqLatchedInHalt := rfl
@[simp] theorem push8_lines (s : State) (v : Byte) : (s.push8 v).lines = s.lines := rfl
@[simp] theorem push8_env (s : State) (v : Byte) : (s.push8 v).env = s.env := rfl
@[simp] theorem push8_draws (s : State) (v : Byte) : (s.push8 v).draws = s.draws := rfl
@[simp] theorem acc_push8 (r : Acc) (s : State) (v : Byte) : (s.push8 v).acc r = s.acc r := by cases r <;> simp [acc]

@[simp] theorem push8_sp (s : State) (v : Byte) : (s.push8 v).sp = s.sp - 1 := rfl
theorem push8_runs (s : State) (v : Byte) :
    s.bus.Runs [.write s.sp v] (s.push8 v).bus := s.writeByte_runs s.sp v

/-! ### pushWord -/

@[simp] theorem pushWord_a (s : State) (v : Word) : (s.pushWord v).a = s.a := rfl
@[simp] theorem pushWord_b (s : State) (v : Word) : (s.pushWord v).b = s.b := rfl
@[simp] theorem pushWord_x (s : State) (v : Word) : (s.pushWord v).x = s.x := rfl
@[simp] theorem pushWord_pc (s : State) (v : Word) : (s.pushWord v).pc = s.pc := rfl
@[simp] theorem pushWord_ccr (s : State) (v : Word) : (s.pushWord v).ccr = s.ccr := rfl
@[simp] theorem pushWord_run (s : State) (v : Word) : (s.pushWord v).run = s.run := rfl
@[simp] theorem pushWord_nmiPending (s : State) (v : Word) : (s.pushWord v).nmiPending = s.nmiPending := rfl
@[simp] theorem pushWord_irqInhibit (s : State) (v : Word) : (s.pushWord v).irqInhibit = s.irqInhibit := rfl
@[simp] theorem pushWord_irqLatchedInHalt (s : State) (v : Word) : (s.pushWord v).irqLatchedInHalt = s.irqLatchedInHalt := rfl
@[simp] theorem pushWord_lines (s : State) (v : Word) : (s.pushWord v).lines = s.lines := rfl
@[simp] theorem pushWord_env (s : State) (v : Word) : (s.pushWord v).env = s.env := rfl
@[simp] theorem pushWord_draws (s : State) (v : Word) : (s.pushWord v).draws = s.draws := rfl
@[simp] theorem acc_pushWord (r : Acc) (s : State) (v : Word) : (s.pushWord v).acc r = s.acc r := by cases r <;> simp [acc]

@[simp] theorem pushWord_sp (s : State) (v : Word) : (s.pushWord v).sp = s.sp - 2 :=
  sub_one_sub_one s.sp
theorem pushWord_runs (s : State) (v : Word) :
    s.bus.Runs [.write s.sp (lo8 v), .write (s.sp - 1) (hi8 v)] (s.pushWord v).bus :=
  (s.push8_runs (lo8 v)).write (s.sp - 1) (hi8 v)

/-! ### pull8 -/

@[simp] theorem pull8_a (s : State) : (s.pull8).a = s.a := rfl
@[simp] theorem pull8_b (s : State) : (s.pull8).b = s.b := rfl
@[simp] theorem pull8_x (s : State) : (s.pull8).x = s.x := rfl
@[simp] theorem pull8_pc (s : State) : (s.pull8).pc = s.pc := rfl
@[simp] theorem pull8_ccr (s : State) : (s.pull8).ccr = s.ccr := rfl
@[simp] theorem pull8_run (s : State) : (s.pull8).run = s.run := rfl
@[simp] theorem pull8_nmiPending (s : State) : (s.pull8).nmiPending = s.nmiPending := rfl
@[simp] theorem pull8_irqInhibit (s : State) : (s.pull8).irqInhibit = s.irqInhibit := rfl
@[simp] theorem pull8_irqLatchedInHalt (s : State) : (s.pull8).irqLatchedInHalt = s.irqLatchedInHalt := rfl
@[simp] theorem pull8_lines (s : State) : (s.pull8).lines = s.lines := rfl
@[simp] theorem pull8_env (s : State) : (s.pull8).env = s.env := rfl
@[simp] theorem pull8_draws (s : State) : (s.pull8).draws = s.draws := rfl
@[simp] theorem acc_pull8 (r : Acc) (s : State) : (s.pull8).acc r = s.acc r := by cases r <;> simp [acc]

@[simp] theorem pull8_sp (s : State) : s.pull8.sp = s.sp + 1 := rfl
theorem pull8_runs (s : State) : s.bus.Runs [.read (s.sp + 1)] s.pull8.bus :=
  s.readCycle_runs (s.sp + 1)

/-! ### pullWord -/

@[simp] theorem pullWord_a (s : State) : (s.pullWord).a = s.a := rfl
@[simp] theorem pullWord_b (s : State) : (s.pullWord).b = s.b := rfl
@[simp] theorem pullWord_x (s : State) : (s.pullWord).x = s.x := rfl
@[simp] theorem pullWord_pc (s : State) : (s.pullWord).pc = s.pc := rfl
@[simp] theorem pullWord_ccr (s : State) : (s.pullWord).ccr = s.ccr := rfl
@[simp] theorem pullWord_run (s : State) : (s.pullWord).run = s.run := rfl
@[simp] theorem pullWord_nmiPending (s : State) : (s.pullWord).nmiPending = s.nmiPending := rfl
@[simp] theorem pullWord_irqInhibit (s : State) : (s.pullWord).irqInhibit = s.irqInhibit := rfl
@[simp] theorem pullWord_irqLatchedInHalt (s : State) : (s.pullWord).irqLatchedInHalt = s.irqLatchedInHalt := rfl
@[simp] theorem pullWord_lines (s : State) : (s.pullWord).lines = s.lines := rfl
@[simp] theorem pullWord_env (s : State) : (s.pullWord).env = s.env := rfl
@[simp] theorem pullWord_draws (s : State) : (s.pullWord).draws = s.draws := rfl
@[simp] theorem acc_pullWord (r : Acc) (s : State) : (s.pullWord).acc r = s.acc r := by cases r <;> simp [acc]

@[simp] theorem pullWord_sp (s : State) : s.pullWord.sp = s.sp + 2 := add_one_add_one s.sp
theorem pullWord_runs (s : State) :
    s.bus.Runs [.read (s.sp + 1), .read (s.sp + 2)] s.pullWord.bus := by
  rw [← add_one_add_one]; exact s.pull8_runs.read (s.sp + 1 + 1)

/-! ### loadCcrDelayed -/

@[simp] theorem loadCcrDelayed_a (s : State) (f : Ccr) : (s.loadCcrDelayed f).a = s.a := rfl
@[simp] theorem loadCcrDelayed_b (s : State) (f : Ccr) : (s.loadCcrDelayed f).b = s.b := rfl
@[simp] theorem loadCcrDelayed_x (s : State) (f : Ccr) : (s.loadCcrDelayed f).x = s.x := rfl
@[simp] theorem loadCcrDelayed_sp (s : State) (f : Ccr) : (s.loadCcrDelayed f).sp = s.sp := rfl
@[simp] theorem loadCcrDelayed_pc (s : State) (f : Ccr) : (s.loadCcrDelayed f).pc = s.pc := rfl
@[simp] theorem loadCcrDelayed_run (s : State) (f : Ccr) : (s.loadCcrDelayed f).run = s.run := rfl
@[simp] theorem loadCcrDelayed_nmiPending (s : State) (f : Ccr) : (s.loadCcrDelayed f).nmiPending = s.nmiPending := rfl
@[simp] theorem loadCcrDelayed_irqLatchedInHalt (s : State) (f : Ccr) : (s.loadCcrDelayed f).irqLatchedInHalt = s.irqLatchedInHalt := rfl
@[simp] theorem loadCcrDelayed_lines (s : State) (f : Ccr) : (s.loadCcrDelayed f).lines = s.lines := rfl
@[simp] theorem loadCcrDelayed_env (s : State) (f : Ccr) : (s.loadCcrDelayed f).env = s.env := rfl
@[simp] theorem loadCcrDelayed_draws (s : State) (f : Ccr) : (s.loadCcrDelayed f).draws = s.draws := rfl
@[simp] theorem loadCcrDelayed_bus (s : State) (f : Ccr) : (s.loadCcrDelayed f).bus = s.bus := rfl
@[simp] theorem acc_loadCcrDelayed (r : Acc) (s : State) (f : Ccr) : (s.loadCcrDelayed f).acc r = s.acc r := by cases r <;> simp [acc]

@[simp] theorem loadCcrDelayed_ccr (s : State) (f : Ccr) : (s.loadCcrDelayed f).ccr = f := rfl
@[simp] theorem loadCcrDelayed_irqInhibit (s : State) (f : Ccr) :
    (s.loadCcrDelayed f).irqInhibit = (s.irqInhibit || (s.ccr.i && !f.i)) := rfl

/-! ### maskInterrupts -/

@[simp] theorem maskInterrupts_a (s : State) : (s.maskInterrupts).a = s.a := rfl
@[simp] theorem maskInterrupts_b (s : State) : (s.maskInterrupts).b = s.b := rfl
@[simp] theorem maskInterrupts_x (s : State) : (s.maskInterrupts).x = s.x := rfl
@[simp] theorem maskInterrupts_sp (s : State) : (s.maskInterrupts).sp = s.sp := rfl
@[simp] theorem maskInterrupts_pc (s : State) : (s.maskInterrupts).pc = s.pc := rfl
@[simp] theorem maskInterrupts_run (s : State) : (s.maskInterrupts).run = s.run := rfl
@[simp] theorem maskInterrupts_nmiPending (s : State) : (s.maskInterrupts).nmiPending = s.nmiPending := rfl
@[simp] theorem maskInterrupts_irqInhibit (s : State) : (s.maskInterrupts).irqInhibit = s.irqInhibit := rfl
@[simp] theorem maskInterrupts_irqLatchedInHalt (s : State) : (s.maskInterrupts).irqLatchedInHalt = s.irqLatchedInHalt := rfl
@[simp] theorem maskInterrupts_lines (s : State) : (s.maskInterrupts).lines = s.lines := rfl
@[simp] theorem maskInterrupts_env (s : State) : (s.maskInterrupts).env = s.env := rfl
@[simp] theorem maskInterrupts_draws (s : State) : (s.maskInterrupts).draws = s.draws := rfl
@[simp] theorem maskInterrupts_bus (s : State) : (s.maskInterrupts).bus = s.bus := rfl
@[simp] theorem acc_maskInterrupts (r : Acc) (s : State) : (s.maskInterrupts).acc r = s.acc r := by cases r <;> simp [acc]

@[simp] theorem maskInterrupts_ccr (s : State) :
    s.maskInterrupts.ccr = { s.ccr with i := true } := rfl

/-! ### stackRegisters -/

@[simp] theorem stackRegisters_a (s : State) : (s.stackRegisters).a = s.a := by simp [stackRegisters]
@[simp] theorem stackRegisters_b (s : State) : (s.stackRegisters).b = s.b := by simp [stackRegisters]
@[simp] theorem stackRegisters_x (s : State) : (s.stackRegisters).x = s.x := by simp [stackRegisters]
@[simp] theorem stackRegisters_pc (s : State) : (s.stackRegisters).pc = s.pc := by simp [stackRegisters]
@[simp] theorem stackRegisters_ccr (s : State) : (s.stackRegisters).ccr = s.ccr := by simp [stackRegisters]
@[simp] theorem stackRegisters_run (s : State) : (s.stackRegisters).run = s.run := by simp [stackRegisters]
@[simp] theorem stackRegisters_nmiPending (s : State) : (s.stackRegisters).nmiPending = s.nmiPending := by simp [stackRegisters]
@[simp] theorem stackRegisters_irqInhibit (s : State) : (s.stackRegisters).irqInhibit = s.irqInhibit := by simp [stackRegisters]
@[simp] theorem stackRegisters_irqLatchedInHalt (s : State) : (s.stackRegisters).irqLatchedInHalt = s.irqLatchedInHalt := by simp [stackRegisters]
@[simp] theorem stackRegisters_lines (s : State) : (s.stackRegisters).lines = s.lines := by simp [stackRegisters]
@[simp] theorem stackRegisters_env (s : State) : (s.stackRegisters).env = s.env := by simp [stackRegisters]
@[simp] theorem stackRegisters_draws (s : State) : (s.stackRegisters).draws = s.draws := by simp [stackRegisters]
@[simp] theorem acc_stackRegisters (r : Acc) (s : State) : (s.stackRegisters).acc r = s.acc r := by cases r <;> simp [acc]

@[simp] theorem stackRegisters_sp (s : State) : s.stackRegisters.sp = s.sp - 7 := by
  simp only [stackRegisters, push8_sp, pushWord_sp, sub_sub]
  rfl
/-- The seven write cycles of R276, with a return address. -/
def stackingRows (ret : Word) (s : State) : List Row :=
  [.write s.sp (lo8 ret), .write (s.sp - 1) (hi8 ret), .write (s.sp - 2) (lo8 s.x),
    .write (s.sp - 3) (hi8 s.x), .write (s.sp - 4) s.a, .write (s.sp - 5) s.b,
    .write (s.sp - 6) s.ccr.toByte]
theorem stackRegisters_runs (s : State) : s.bus.Runs (stackingRows s.pc s) s.stackRegisters.bus := by
  have h := (((((s.pushWord_runs s.pc).trans ((s.pushWord s.pc).pushWord_runs s.x)).trans
    (((s.pushWord s.pc).pushWord s.x).push8_runs s.a)).trans
    ((((s.pushWord s.pc).pushWord s.x).push8 s.a).push8_runs s.b))).trans
    (((((s.pushWord s.pc).pushWord s.x).push8 s.a).push8 s.b).push8_runs s.ccr.toByte)
  simp only [List.cons_append, List.nil_append, pushWord_sp, push8_sp, sub_two_sub_one, sub_two_sub_two, sub_four_sub_one,
    sub_five_sub_one] at h
  exact h
@[simp] theorem stackingRows_written (ret : Word) (s : State) :
    (stackingRows ret s).filterMap Row.written = stackedBytes ret s := rfl
/-- No address is stacked to twice. -/
theorem stackedBytes_nodup (ret : Word) (s : State) : ((stackedBytes ret s).map Prod.fst).Nodup := by
  have h : (stackedBytes ret s).map Prod.fst =
      [(0 : Word), 1, 2, 3, 4, 5, 6].map (fun k => s.sp - k) := by simp [stackedBytes]
  rw [h]
  exact List.Nodup.map (fun a b => by simp) (by decide)

/-! ### loadVector -/

@[simp] theorem loadVector_a (v : InterruptVector) (s : State) : (s.loadVector v).a = s.a := rfl
@[simp] theorem loadVector_b (v : InterruptVector) (s : State) : (s.loadVector v).b = s.b := rfl
@[simp] theorem loadVector_x (v : InterruptVector) (s : State) : (s.loadVector v).x = s.x := rfl
@[simp] theorem loadVector_sp (v : InterruptVector) (s : State) : (s.loadVector v).sp = s.sp := rfl
@[simp] theorem loadVector_ccr (v : InterruptVector) (s : State) : (s.loadVector v).ccr = s.ccr := rfl
@[simp] theorem loadVector_run (v : InterruptVector) (s : State) : (s.loadVector v).run = s.run := rfl
@[simp] theorem loadVector_nmiPending (v : InterruptVector) (s : State) : (s.loadVector v).nmiPending = s.nmiPending := rfl
@[simp] theorem loadVector_irqInhibit (v : InterruptVector) (s : State) : (s.loadVector v).irqInhibit = s.irqInhibit := rfl
@[simp] theorem loadVector_irqLatchedInHalt (v : InterruptVector) (s : State) : (s.loadVector v).irqLatchedInHalt = s.irqLatchedInHalt := rfl
@[simp] theorem loadVector_lines (v : InterruptVector) (s : State) : (s.loadVector v).lines = s.lines := rfl
@[simp] theorem loadVector_env (v : InterruptVector) (s : State) : (s.loadVector v).env = s.env := rfl
@[simp] theorem loadVector_draws (v : InterruptVector) (s : State) : (s.loadVector v).draws = s.draws := rfl
@[simp] theorem acc_loadVector (r : Acc) (v : InterruptVector) (s : State) : (s.loadVector v).acc r = s.acc r := by cases r <;> simp [acc]

@[simp] theorem loadVector_pc (v : InterruptVector) (s : State) :
    (s.loadVector v).pc = s.readWord v.addr := rfl
theorem loadVector_runs (v : InterruptVector) (s : State) :
    s.bus.Runs [.read v.addr, .read (v.addr + 1)] (s.loadVector v).bus := s.readWordCycles_runs v.addr

/-! ### enterHandler -/

@[simp] theorem enterHandler_a (v : InterruptVector) (s : State) : (s.enterHandler v).a = s.a := rfl
@[simp] theorem enterHandler_b (v : InterruptVector) (s : State) : (s.enterHandler v).b = s.b := rfl
@[simp] theorem enterHandler_x (v : InterruptVector) (s : State) : (s.enterHandler v).x = s.x := rfl
@[simp] theorem enterHandler_sp (v : InterruptVector) (s : State) : (s.enterHandler v).sp = s.sp := rfl
@[simp] theorem enterHandler_run (v : InterruptVector) (s : State) : (s.enterHandler v).run = s.run := rfl
@[simp] theorem enterHandler_nmiPending (v : InterruptVector) (s : State) : (s.enterHandler v).nmiPending = s.nmiPending := rfl
@[simp] theorem enterHandler_irqInhibit (v : InterruptVector) (s : State) : (s.enterHandler v).irqInhibit = s.irqInhibit := rfl
@[simp] theorem enterHandler_irqLatchedInHalt (v : InterruptVector) (s : State) : (s.enterHandler v).irqLatchedInHalt = s.irqLatchedInHalt := rfl
@[simp] theorem enterHandler_lines (v : InterruptVector) (s : State) : (s.enterHandler v).lines = s.lines := rfl
@[simp] theorem enterHandler_env (v : InterruptVector) (s : State) : (s.enterHandler v).env = s.env := rfl
@[simp] theorem enterHandler_draws (v : InterruptVector) (s : State) : (s.enterHandler v).draws = s.draws := rfl
@[simp] theorem acc_enterHandler (r : Acc) (v : InterruptVector) (s : State) : (s.enterHandler v).acc r = s.acc r := by cases r <;> simp [acc]

@[simp] theorem enterHandler_pc (v : InterruptVector) (s : State) :
    (s.enterHandler v).pc = s.readWord v.addr := rfl
@[simp] theorem enterHandler_ccr (v : InterruptVector) (s : State) :
    (s.enterHandler v).ccr = { s.ccr with i := true } := rfl
theorem enterHandler_runs (v : InterruptVector) (s : State) :
    s.bus.Runs [.read v.addr, .read (v.addr + 1)] (s.enterHandler v).bus := s.readWordCycles_runs v.addr

/-! ### vectorGap -/

@[simp] theorem vectorGap_a (v : InterruptVector) (s : State) : (s.vectorGap v).a = s.a := by cases v <;> rfl
@[simp] theorem vectorGap_b (v : InterruptVector) (s : State) : (s.vectorGap v).b = s.b := by cases v <;> rfl
@[simp] theorem vectorGap_x (v : InterruptVector) (s : State) : (s.vectorGap v).x = s.x := by cases v <;> rfl
@[simp] theorem vectorGap_sp (v : InterruptVector) (s : State) : (s.vectorGap v).sp = s.sp := by cases v <;> rfl
@[simp] theorem vectorGap_pc (v : InterruptVector) (s : State) : (s.vectorGap v).pc = s.pc := by cases v <;> rfl
@[simp] theorem vectorGap_ccr (v : InterruptVector) (s : State) : (s.vectorGap v).ccr = s.ccr := by cases v <;> rfl
@[simp] theorem vectorGap_run (v : InterruptVector) (s : State) : (s.vectorGap v).run = s.run := by cases v <;> rfl
@[simp] theorem vectorGap_nmiPending (v : InterruptVector) (s : State) : (s.vectorGap v).nmiPending = s.nmiPending := by cases v <;> rfl
@[simp] theorem vectorGap_irqInhibit (v : InterruptVector) (s : State) : (s.vectorGap v).irqInhibit = s.irqInhibit := by cases v <;> rfl
@[simp] theorem vectorGap_irqLatchedInHalt (v : InterruptVector) (s : State) : (s.vectorGap v).irqLatchedInHalt = s.irqLatchedInHalt := by cases v <;> rfl
@[simp] theorem vectorGap_lines (v : InterruptVector) (s : State) : (s.vectorGap v).lines = s.lines := by cases v <;> rfl
@[simp] theorem vectorGap_env (v : InterruptVector) (s : State) : (s.vectorGap v).env = s.env := by cases v <;> rfl
@[simp] theorem vectorGap_draws (v : InterruptVector) (s : State) : (s.vectorGap v).draws = s.draws := by cases v <;> rfl
@[simp] theorem acc_vectorGap (r : Acc) (v : InterruptVector) (s : State) : (s.vectorGap v).acc r = s.acc r := by cases r <;> simp [acc]

/-- The one cycle that SWI makes between stacking and vector. -/
def gapRows (v : InterruptVector) (s : State) : List Row :=
  match v with
  | .swi => [.none s.sp]
  | .reset | .nmi | .irq => []
theorem vectorGap_runs (v : InterruptVector) (s : State) :
    s.bus.Runs (gapRows v s) (s.vectorGap v).bus := by
  cases v
  case swi => exact s.idle_runs s.sp
  all_goals exact .refl
@[simp] theorem gapRows_written (v : InterruptVector) (s : State) :
    (gapRows v s).filterMap Row.written = [] := by cases v <;> rfl

/-! ### takeInterrupt -/

@[simp] theorem takeInterrupt_a (v : InterruptVector) (s : State) : (s.takeInterrupt v).a = s.a := by simp [takeInterrupt]
@[simp] theorem takeInterrupt_b (v : InterruptVector) (s : State) : (s.takeInterrupt v).b = s.b := by simp [takeInterrupt]
@[simp] theorem takeInterrupt_x (v : InterruptVector) (s : State) : (s.takeInterrupt v).x = s.x := by simp [takeInterrupt]
@[simp] theorem takeInterrupt_run (v : InterruptVector) (s : State) : (s.takeInterrupt v).run = s.run := by simp [takeInterrupt]
@[simp] theorem takeInterrupt_nmiPending (v : InterruptVector) (s : State) : (s.takeInterrupt v).nmiPending = s.nmiPending := by simp [takeInterrupt]
@[simp] theorem takeInterrupt_irqInhibit (v : InterruptVector) (s : State) : (s.takeInterrupt v).irqInhibit = s.irqInhibit := by simp [takeInterrupt]
@[simp] theorem takeInterrupt_irqLatchedInHalt (v : InterruptVector) (s : State) : (s.takeInterrupt v).irqLatchedInHalt = s.irqLatchedInHalt := by simp [takeInterrupt]
@[simp] theorem takeInterrupt_lines (v : InterruptVector) (s : State) : (s.takeInterrupt v).lines = s.lines := by simp [takeInterrupt]
@[simp] theorem takeInterrupt_env (v : InterruptVector) (s : State) : (s.takeInterrupt v).env = s.env := by simp [takeInterrupt]
@[simp] theorem takeInterrupt_draws (v : InterruptVector) (s : State) : (s.takeInterrupt v).draws = s.draws := by simp [takeInterrupt]
@[simp] theorem acc_takeInterrupt (r : Acc) (v : InterruptVector) (s : State) : (s.takeInterrupt v).acc r = s.acc r := by cases r <;> simp [acc]

@[simp] theorem takeInterrupt_sp (v : InterruptVector) (s : State) :
    (s.takeInterrupt v).sp = s.sp - 7 := by simp [takeInterrupt]
@[simp] theorem takeInterrupt_ccr (v : InterruptVector) (s : State) :
    (s.takeInterrupt v).ccr = { s.ccr with i := true } := by simp [takeInterrupt]
@[simp] theorem takeInterrupt_pc (v : InterruptVector) (s : State) :
    (s.takeInterrupt v).pc = (s.stackRegisters.vectorGap v).readWord v.addr := by simp [takeInterrupt]
theorem takeInterrupt_runs (v : InterruptVector) (s : State) :
    s.bus.Runs (stackingRows s.pc s ++ gapRows v s.stackRegisters ++ [.read v.addr, .read (v.addr + 1)])
      (s.takeInterrupt v).bus :=
  (s.stackRegisters_runs.trans (s.stackRegisters.vectorGap_runs v)).trans
    ((s.stackRegisters.vectorGap v).enterHandler_runs v)

/-- What an interrupt stores: the seven bytes of R276, with PC as the return address. -/
theorem takeInterrupt_stores (v : InterruptVector) (s : State) :
    Stores (stackedBytes s.pc s) s (s.takeInterrupt v) := by
  have h := Stores.of_runs (s.takeInterrupt_runs v) (by
    simpa [List.filterMap_append, List.filterMap_cons] using stackedBytes_nodup _ _)
  simpa [List.filterMap_append, List.filterMap_cons] using h
theorem takeInterrupt_loads (v : InterruptVector) (s : State) :
    LoadsVector v.addr s (s.takeInterrupt v) :=
  LoadsVector.of_runs (t := (s.stackRegisters.vectorGap v).maskInterrupts)
    (s.stackRegisters_runs.trans (s.stackRegisters.vectorGap_runs v)) v
theorem enterHandler_loads (v : InterruptVector) (s : State) :
    LoadsVector v.addr s (s.enterHandler v) :=
  LoadsVector.of_runs (t := s.maskInterrupts) (rows := []) .refl v

/-! ### returnFromInterrupt -/

@[simp] theorem returnFromInterrupt_run (s : State) : (s.returnFromInterrupt).run = s.run := by simp [returnFromInterrupt]
@[simp] theorem returnFromInterrupt_nmiPending (s : State) : (s.returnFromInterrupt).nmiPending = s.nmiPending := by simp [returnFromInterrupt]
@[simp] theorem returnFromInterrupt_irqLatchedInHalt (s : State) : (s.returnFromInterrupt).irqLatchedInHalt = s.irqLatchedInHalt := by simp [returnFromInterrupt]
@[simp] theorem returnFromInterrupt_lines (s : State) : (s.returnFromInterrupt).lines = s.lines := by simp [returnFromInterrupt]
@[simp] theorem returnFromInterrupt_env (s : State) : (s.returnFromInterrupt).env = s.env := by simp [returnFromInterrupt]
@[simp] theorem returnFromInterrupt_draws (s : State) : (s.returnFromInterrupt).draws = s.draws := by simp [returnFromInterrupt]

@[simp] theorem returnFromInterrupt_sp (s : State) : s.returnFromInterrupt.sp = s.sp + 7 := by
  simp only [returnFromInterrupt, setIrqInhibit_sp, setCcr_sp, setPc_sp, setX_sp, setA_sp, setB_sp,
    pullWord_sp, pull8_sp, idle_sp, add_assoc]
  rfl
theorem returnFromInterrupt_runs (s : State) :
    s.bus.Runs [.none s.sp, .read (s.sp + 1), .read (s.sp + 2), .read (s.sp + 3), .read (s.sp + 4),
      .read (s.sp + 5), .read (s.sp + 6), .read (s.sp + 7)] s.returnFromInterrupt.bus := by
  have h := (((((s.idle_runs s.sp).trans (pull8_runs _)).trans (pull8_runs _)).trans
    (pull8_runs _)).trans (pullWord_runs _)).trans (pullWord_runs _)
  simp only [List.cons_append, List.nil_append, pullWord_sp, pull8_sp, idle_sp, add_assoc] at h
  simp only [returnFromInterrupt, setIrqInhibit_bus, setCcr_bus, setPc_bus, setX_bus, setA_bus, setB_bus]
  exact h

/-! ### freeRegisters -/

@[simp] theorem freeRegisters_pc (s : State) : (s.freeRegisters).pc = s.pc := rfl
@[simp] theorem freeRegisters_run (s : State) : (s.freeRegisters).run = s.run := rfl
@[simp] theorem freeRegisters_nmiPending (s : State) : (s.freeRegisters).nmiPending = s.nmiPending := rfl
@[simp] theorem freeRegisters_irqInhibit (s : State) : (s.freeRegisters).irqInhibit = s.irqInhibit := rfl
@[simp] theorem freeRegisters_irqLatchedInHalt (s : State) : (s.freeRegisters).irqLatchedInHalt = s.irqLatchedInHalt := rfl
@[simp] theorem freeRegisters_lines (s : State) : (s.freeRegisters).lines = s.lines := rfl
@[simp] theorem freeRegisters_env (s : State) : (s.freeRegisters).env = s.env := rfl
@[simp] theorem freeRegisters_bus (s : State) : (s.freeRegisters).bus = s.bus := rfl

@[simp] theorem freeRegisters_i (s : State) : s.freeRegisters.ccr.i = s.ccr.i := rfl

/-! ### resetSequence -/

@[simp] theorem resetSequence_lines (s : State) : (s.resetSequence).lines = s.lines := rfl
@[simp] theorem resetSequence_env (s : State) : (s.resetSequence).env = s.env := rfl

@[simp] theorem resetSequence_i (s : State) : s.resetSequence.ccr.i = true := rfl
@[simp] theorem resetSequence_pc (s : State) : s.resetSequence.pc = s.readWord 0xFFFE := rfl
@[simp] theorem resetSequence_run (s : State) : s.resetSequence.run = .running := rfl
@[simp] theorem resetSequence_nmiPending (s : State) : s.resetSequence.nmiPending = false := rfl
@[simp] theorem resetSequence_irqInhibit (s : State) : s.resetSequence.irqInhibit = false := rfl
@[simp] theorem resetSequence_irqLatchedInHalt (s : State) :
    s.resetSequence.irqLatchedInHalt = false := rfl
theorem resetSequence_runs (s : State) :
    s.bus.Runs [.read 0xFFFE, .read 0xFFFF] s.resetSequence.bus :=
  s.freeRegisters.enterHandler_runs .reset

/-! ### Reading a word -/

/-- A word read from memory that no other master writes meanwhile is the one there, in the byte order of
R46. -/
theorem readWord_of_memory {s : State} {addr : Word} (h : ReadsMemory s addr)
    (k : ReadsMemory s (addr + 1)) : s.readWord addr = s.mem.read16 addr := by
  have h1 : s.readData addr = s.mem.read addr :=
    (Bus.answer_of_memory h.1).trans (Bus.read_of_untouched h.2)
  have k1 : (s.readCycle addr).readData (addr + 1) = s.mem.read (addr + 1) :=
    (Bus.answer_of_memory (b := s.bus.read addr) k.1).trans
      ((Bus.read_of_untouched (b := s.bus.read addr)
        (by simpa using k.2.drop 1)).trans (Bus.read_of_untouched k.2))
  rw [readWord, Memory.read16, h1, k1]

/-- A byte read from memory that no other master writes before is the one there. -/
theorem readData_of_memory {s : State} {addr : Word} (h : ReadsMemory s addr) :
    s.readData addr = s.mem.read addr :=
  (Bus.answer_of_memory h.1).trans (Bus.read_of_untouched h.2)

/-- After any cycles, reads of memory that nobody writes still get the byte there. -/
theorem readsMemory_of_runs {s t : State} {rows : List Row} (k : s.bus.Runs rows t.bus) {addr : Word}
    (h : ReadsMemory s addr) : ReadsMemory t addr :=
  ⟨by simpa only [InMemory, k.platform] using h.1, by rw [k.inputs]; exact h.2.drop _⟩

/-- After any cycles, a store to RAM that nobody else writes still lands. -/
theorem storesMemory_of_runs {s t : State} {rows : List Row} (k : s.bus.Runs rows t.bus) {addr : Word}
    (h : StoresMemory s addr) : StoresMemory t addr :=
  ⟨by rw [k.platform]; exact h.1, by rw [k.inputs]; exact h.2.1.drop _, by
    rw [k.inputs]; exact h.2.2.drop _⟩

/-- Where a store lands, a read gets the byte in memory. -/
theorem readsMemory_of_storesMemory {s : State} {addr : Word} (h : StoresMemory s addr) :
    ReadsMemory s addr := ⟨.inl h.1, h.2.1⟩

end Sys2Proof.Machine.State

namespace Sys2Proof

open Machine

@[simp] theorem Mem.address_a (s : State) (m : Mem) : (m.address s).a = s.a := by cases m <;> rfl
@[simp] theorem Mem.address_b (s : State) (m : Mem) : (m.address s).b = s.b := by cases m <;> rfl
@[simp] theorem Mem.address_x (s : State) (m : Mem) : (m.address s).x = s.x := by cases m <;> rfl
@[simp] theorem Mem.address_sp (s : State) (m : Mem) : (m.address s).sp = s.sp := by cases m <;> rfl
@[simp] theorem Mem.address_pc (s : State) (m : Mem) : (m.address s).pc = s.pc := by cases m <;> rfl
@[simp] theorem Mem.address_ccr (s : State) (m : Mem) : (m.address s).ccr = s.ccr := by cases m <;> rfl
@[simp] theorem Mem.address_run (s : State) (m : Mem) : (m.address s).run = s.run := by cases m <;> rfl
@[simp] theorem Mem.address_nmiPending (s : State) (m : Mem) : (m.address s).nmiPending = s.nmiPending := by cases m <;> rfl
@[simp] theorem Mem.address_irqInhibit (s : State) (m : Mem) : (m.address s).irqInhibit = s.irqInhibit := by cases m <;> rfl
@[simp] theorem Mem.address_irqLatchedInHalt (s : State) (m : Mem) : (m.address s).irqLatchedInHalt = s.irqLatchedInHalt := by cases m <;> rfl
@[simp] theorem Mem.address_lines (s : State) (m : Mem) : (m.address s).lines = s.lines := by cases m <;> rfl
@[simp] theorem Mem.address_env (s : State) (m : Mem) : (m.address s).env = s.env := by cases m <;> rfl
@[simp] theorem Mem.address_draws (s : State) (m : Mem) : (m.address s).draws = s.draws := by cases m <;> rfl
@[simp] theorem Mem.acc_address (r : Acc) (s : State) (m : Mem) : (m.address s).acc r = s.acc r := by
  cases r <;> simp [State.acc]

@[simp] theorem Mem.load_a (s : State) (m : Mem) : (m.load s).a = s.a := by cases m <;> rfl
@[simp] theorem Mem.load_b (s : State) (m : Mem) : (m.load s).b = s.b := by cases m <;> rfl
@[simp] theorem Mem.load_x (s : State) (m : Mem) : (m.load s).x = s.x := by cases m <;> rfl
@[simp] theorem Mem.load_sp (s : State) (m : Mem) : (m.load s).sp = s.sp := by cases m <;> rfl
@[simp] theorem Mem.load_pc (s : State) (m : Mem) : (m.load s).pc = s.pc := by cases m <;> rfl
@[simp] theorem Mem.load_ccr (s : State) (m : Mem) : (m.load s).ccr = s.ccr := by cases m <;> rfl
@[simp] theorem Mem.load_run (s : State) (m : Mem) : (m.load s).run = s.run := by cases m <;> rfl
@[simp] theorem Mem.load_nmiPending (s : State) (m : Mem) : (m.load s).nmiPending = s.nmiPending := by cases m <;> rfl
@[simp] theorem Mem.load_irqInhibit (s : State) (m : Mem) : (m.load s).irqInhibit = s.irqInhibit := by cases m <;> rfl
@[simp] theorem Mem.load_irqLatchedInHalt (s : State) (m : Mem) : (m.load s).irqLatchedInHalt = s.irqLatchedInHalt := by cases m <;> rfl
@[simp] theorem Mem.load_lines (s : State) (m : Mem) : (m.load s).lines = s.lines := by cases m <;> rfl
@[simp] theorem Mem.load_env (s : State) (m : Mem) : (m.load s).env = s.env := by cases m <;> rfl
@[simp] theorem Mem.load_draws (s : State) (m : Mem) : (m.load s).draws = s.draws := by cases m <;> rfl
@[simp] theorem Mem.acc_load (r : Acc) (s : State) (m : Mem) : (m.load s).acc r = s.acc r := by
  cases r <;> simp [State.acc]

@[simp] theorem Src8.access_a (s : State) (m : Src8) : (m.access s).a = s.a := by
  rcases m with _ | (_ | _ | _) <;> rfl
@[simp] theorem Src8.access_b (s : State) (m : Src8) : (m.access s).b = s.b := by
  rcases m with _ | (_ | _ | _) <;> rfl
@[simp] theorem Src8.access_x (s : State) (m : Src8) : (m.access s).x = s.x := by
  rcases m with _ | (_ | _ | _) <;> rfl
@[simp] theorem Src8.access_sp (s : State) (m : Src8) : (m.access s).sp = s.sp := by
  rcases m with _ | (_ | _ | _) <;> rfl
@[simp] theorem Src8.access_pc (s : State) (m : Src8) : (m.access s).pc = s.pc := by
  rcases m with _ | (_ | _ | _) <;> rfl
@[simp] theorem Src8.access_ccr (s : State) (m : Src8) : (m.access s).ccr = s.ccr := by
  rcases m with _ | (_ | _ | _) <;> rfl
@[simp] theorem Src8.access_run (s : State) (m : Src8) : (m.access s).run = s.run := by
  rcases m with _ | (_ | _ | _) <;> rfl
@[simp] theorem Src8.access_nmiPending (s : State) (m : Src8) : (m.access s).nmiPending = s.nmiPending := by
  rcases m with _ | (_ | _ | _) <;> rfl
@[simp] theorem Src8.access_irqInhibit (s : State) (m : Src8) : (m.access s).irqInhibit = s.irqInhibit := by
  rcases m with _ | (_ | _ | _) <;> rfl
@[simp] theorem Src8.access_irqLatchedInHalt (s : State) (m : Src8) : (m.access s).irqLatchedInHalt = s.irqLatchedInHalt := by
  rcases m with _ | (_ | _ | _) <;> rfl
@[simp] theorem Src8.access_lines (s : State) (m : Src8) : (m.access s).lines = s.lines := by
  rcases m with _ | (_ | _ | _) <;> rfl
@[simp] theorem Src8.access_env (s : State) (m : Src8) : (m.access s).env = s.env := by
  rcases m with _ | (_ | _ | _) <;> rfl
@[simp] theorem Src8.access_draws (s : State) (m : Src8) : (m.access s).draws = s.draws := by
  rcases m with _ | (_ | _ | _) <;> rfl
@[simp] theorem Src8.acc_access (r : Acc) (s : State) (m : Src8) : (m.access s).acc r = s.acc r := by
  cases r <;> simp [State.acc]

@[simp] theorem Src16.access_a (s : State) (m : Src16) : (m.access s).a = s.a := by
  rcases m with _ | (_ | _ | _) <;> rfl
@[simp] theorem Src16.access_b (s : State) (m : Src16) : (m.access s).b = s.b := by
  rcases m with _ | (_ | _ | _) <;> rfl
@[simp] theorem Src16.access_x (s : State) (m : Src16) : (m.access s).x = s.x := by
  rcases m with _ | (_ | _ | _) <;> rfl
@[simp] theorem Src16.access_sp (s : State) (m : Src16) : (m.access s).sp = s.sp := by
  rcases m with _ | (_ | _ | _) <;> rfl
@[simp] theorem Src16.access_pc (s : State) (m : Src16) : (m.access s).pc = s.pc := by
  rcases m with _ | (_ | _ | _) <;> rfl
@[simp] theorem Src16.access_ccr (s : State) (m : Src16) : (m.access s).ccr = s.ccr := by
  rcases m with _ | (_ | _ | _) <;> rfl
@[simp] theorem Src16.access_run (s : State) (m : Src16) : (m.access s).run = s.run := by
  rcases m with _ | (_ | _ | _) <;> rfl
@[simp] theorem Src16.access_nmiPending (s : State) (m : Src16) : (m.access s).nmiPending = s.nmiPending := by
  rcases m with _ | (_ | _ | _) <;> rfl
@[simp] theorem Src16.access_irqInhibit (s : State) (m : Src16) : (m.access s).irqInhibit = s.irqInhibit := by
  rcases m with _ | (_ | _ | _) <;> rfl
@[simp] theorem Src16.access_irqLatchedInHalt (s : State) (m : Src16) : (m.access s).irqLatchedInHalt = s.irqLatchedInHalt := by
  rcases m with _ | (_ | _ | _) <;> rfl
@[simp] theorem Src16.access_lines (s : State) (m : Src16) : (m.access s).lines = s.lines := by
  rcases m with _ | (_ | _ | _) <;> rfl
@[simp] theorem Src16.access_env (s : State) (m : Src16) : (m.access s).env = s.env := by
  rcases m with _ | (_ | _ | _) <;> rfl
@[simp] theorem Src16.access_draws (s : State) (m : Src16) : (m.access s).draws = s.draws := by
  rcases m with _ | (_ | _ | _) <;> rfl
@[simp] theorem Src16.acc_access (r : Acc) (s : State) (m : Src16) : (m.access s).acc r = s.acc r := by
  cases r <;> simp [State.acc]

/-- The rows between the instruction bytes and the operand (R55, R57, R61). -/
def Mem.addressRows (s : State) : Mem → List Row
  | .dir _ | .ext _ => []
  | .ind o => [.none s.x, .none (sumWithoutCarry s.x o)]

theorem Mem.address_runs (s : State) (m : Mem) :
    s.bus.Runs (m.addressRows s) (m.address s).bus := by
  cases m
  case ind o => exact (s.idle_runs s.x).none _
  all_goals exact .refl

@[simp] theorem Mem.addressRows_written (s : State) (m : Mem) :
    (m.addressRows s).filterMap Row.written = [] := by cases m <;> rfl

theorem Mem.load_runs (s : State) (m : Mem) :
    s.bus.Runs (m.addressRows s ++ [.read (m.ea s)]) (m.load s).bus := (m.address_runs s).read _

/-- The rows of an 8-bit operand after the instruction bytes. -/
def Src8.rows (s : State) : Src8 → List Row
  | .imm _ => []
  | .mem m => m.addressRows s ++ [.read (m.ea s)]

theorem Src8.access_runs (s : State) (m : Src8) : s.bus.Runs (m.rows s) (m.access s).bus := by
  cases m with
  | imm v => exact .refl
  | mem m => exact m.load_runs s

@[simp] theorem Src8.rows_written (s : State) (m : Src8) :
    (m.rows s).filterMap Row.written = [] := by
  cases m <;> simp [Src8.rows]

/-- The rows of a 16-bit operand after the instruction bytes. -/
def Src16.rows (s : State) : Src16 → List Row
  | .imm _ => []
  | .mem m => m.addressRows s ++ [.read (m.ea s), .read (m.ea s + 1)]

theorem Src16.access_runs (s : State) (m : Src16) : s.bus.Runs (m.rows s) (m.access s).bus := by
  cases m with
  | imm v => exact .refl
  | mem m => exact (m.address_runs s).trans ((m.address s).readWordCycles_runs _)

@[simp] theorem Src16.rows_written (s : State) (m : Src16) :
    (m.rows s).filterMap Row.written = [] := by
  cases m <;> simp [Src16.rows]

/-- The operand of a memory mode is the byte at the effective address, where memory answers. -/
theorem Mem.value_of_memory {s : State} {m : Mem} (h : ReadsMemory s (m.ea s)) :
    m.value s = s.mem.read (m.ea s) := by
  rw [Mem.value, State.readData_of_memory (State.readsMemory_of_runs (m.address_runs s) h)]
  exact (m.address_runs s).read_of_not_written h.2 (.inl (by simp))

end Sys2Proof
end

