-- ==== Sys2Proof/Laws/Fetch.lean ====
section
/-! SUPPORT. What fetching an instruction does: its length, the state after it, and the rows of its
cycles. -/

namespace Sys2Proof

/-- What a cell builds is as long as its opcode and operand bytes (R81). -/
def MapCell.RightLength (c : MapCell) : Prop :=
  ∀ op b1 b2 : Byte, (c.build op b1 b2).length = 1 + c.operandBytes

/-- Every cell of the map is right: each of its rows is gone through cell by cell (R93). -/
theorem opcodeRow_length (r : Nat) : ∀ c ∈ opcodeRow r, c.RightLength := by
  unfold opcodeRow
  split
  case h_17 => exact List.forall_mem_nil _
  all_goals
    iterate 16 refine List.forall_mem_cons.2 ⟨fun op b1 b2 => rfl, ?_⟩
    exact List.forall_mem_nil _

/-- The opcode alone says how long the instruction is (R80, R81). -/
theorem decodeBytes_length (op b1 b2 : Byte) :
    (decodeBytes op b1 b2).length = 1 + (opcodeCell op).operandBytes := by
  unfold decodeBytes opcodeCell
  rw [List.getD_eq_getElem?_getD]
  cases h : (opcodeRow (op.toNat / 16))[op.toNat % 16]? with
  | none => rfl
  | some c => exact opcodeRow_length _ c (List.mem_of_getElem? h) op b1 b2

theorem operandBytes_le_two (c : MapCell) : c.operandBytes ≤ 2 := by
  cases c <;> simp [MapCell.operandBytes]

namespace Machine.State

/-- The read cycles of `n` bytes from an address on. -/
def fetchRows (addr : Word) (n : Nat) : List Row :=
  (List.range n).map (fun k => .read (addr + BitVec.ofNat 16 k))

@[simp] theorem fetchRows_written (addr : Word) (n : Nat) :
    (fetchRows addr n).filterMap Row.written = [] := by
  simp [fetchRows, List.filterMap_map, Function.comp_def]

/-- The three forms of a fetch, by the length of the instruction. -/
theorem fetchInstr_cases (s : State) :
    (s.fetchInstr.1.length = 1 ∧ s.fetchInstr.2 = s.fetch8) ∨
    (s.fetchInstr.1.length = 2 ∧ s.fetchInstr.2 = s.fetch8.fetch8) ∨
    (s.fetchInstr.1.length = 3 ∧ s.fetchInstr.2 = s.fetch8.fetch8.fetch8) := by
  have h := operandBytes_le_two (opcodeCell (s.readData s.pc))
  obtain h | h | h : (opcodeCell (s.readData s.pc)).operandBytes = 0 ∨
      (opcodeCell (s.readData s.pc)).operandBytes = 1 ∨
      (opcodeCell (s.readData s.pc)).operandBytes = 2 := by omega
  · exact .inl (by simp [fetchInstr, h, decodeBytes_length])
  · exact .inr (.inl (by simp [fetchInstr, h, decodeBytes_length]))
  · exact .inr (.inr (by simp [fetchInstr, h, decodeBytes_length]))

/-- A fetch changes PC and the bus only, and PC is after the instruction (R82). -/
theorem fetchInstr_eq (s : State) : s.fetchInstr.2 = { s with
    pc := s.pc + BitVec.ofNat 16 s.fetchInstr.1.length, bus := s.fetchInstr.2.bus } := by
  rcases s.fetchInstr_cases with ⟨h, k⟩ | ⟨h, k⟩ | ⟨h, k⟩ <;> rw [h, k] <;>
    apply State.eq_of_fields <;> simp [add_assoc]

theorem fetchInstr_runs (s : State) :
    s.bus.Runs (fetchRows s.pc s.fetchInstr.1.length) s.fetchInstr.2.bus := by
  have r1 := s.fetch8_runs
  have r2 := r1.trans s.fetch8.fetch8_runs
  have r3 := r2.trans s.fetch8.fetch8.fetch8_runs
  rcases s.fetchInstr_cases with ⟨h, k⟩ | ⟨h, k⟩ | ⟨h, k⟩ <;> rw [h, k]
  · simpa [fetchRows, List.range_succ] using r1
  · simpa [fetchRows, List.range_succ] using r2
  · simpa [fetchRows, List.range_succ, add_assoc] using r3

@[simp] theorem fetchInstr_a (s : State) : s.fetchInstr.2.a = s.a := by rw [fetchInstr_eq]
@[simp] theorem fetchInstr_b (s : State) : s.fetchInstr.2.b = s.b := by rw [fetchInstr_eq]
@[simp] theorem fetchInstr_x (s : State) : s.fetchInstr.2.x = s.x := by rw [fetchInstr_eq]
@[simp] theorem fetchInstr_sp (s : State) : s.fetchInstr.2.sp = s.sp := by rw [fetchInstr_eq]
@[simp] theorem fetchInstr_ccr (s : State) : s.fetchInstr.2.ccr = s.ccr := by rw [fetchInstr_eq]
@[simp] theorem fetchInstr_run (s : State) : s.fetchInstr.2.run = s.run := by rw [fetchInstr_eq]
@[simp] theorem fetchInstr_nmiPending (s : State) : s.fetchInstr.2.nmiPending = s.nmiPending := by rw [fetchInstr_eq]
@[simp] theorem fetchInstr_irqInhibit (s : State) : s.fetchInstr.2.irqInhibit = s.irqInhibit := by rw [fetchInstr_eq]
@[simp] theorem fetchInstr_irqLatchedInHalt (s : State) : s.fetchInstr.2.irqLatchedInHalt = s.irqLatchedInHalt := by rw [fetchInstr_eq]
@[simp] theorem fetchInstr_lines (s : State) : s.fetchInstr.2.lines = s.lines := by rw [fetchInstr_eq]
@[simp] theorem fetchInstr_env (s : State) : s.fetchInstr.2.env = s.env := by rw [fetchInstr_eq]
@[simp] theorem fetchInstr_draws (s : State) : s.fetchInstr.2.draws = s.draws := by rw [fetchInstr_eq]

theorem fetchInstr_pc (s : State) :
    s.fetchInstr.2.pc = s.pc + BitVec.ofNat 16 s.fetchInstr.1.length := by
  conv_lhs => rw [fetchInstr_eq]

end Machine.State

end Sys2Proof
end

