-- ==== Sys2Proof/Laws/Shapes.lean ====
section
/-! SUPPORT. What each instruction shape does: the whole state after it, with the bus left as it is, and
the rows of its bus cycles after the fetch. A proof about an instruction rewrites with the equation of its
shape and cites the rows. -/

namespace Sys2Proof.Machine

/-! ## The state after each shape -/

theorem binaryOp_a_eq (m : Src8) (f : Byte → Byte → Ccr → Byte × Ccr) (s : State) :
    binaryOp .a m f s = { s with a := (f s.a (m.value s) s.ccr).1, ccr := (f s.a (m.value s) s.ccr).2, bus := (binaryOp .a m f s).bus } := by
  apply State.eq_of_fields <;> simp [binaryOp]

theorem accOp_a_eq (f : Byte → Ccr → Byte × Ccr) (s : State) :
    accOp .a f s = { s with a := (f s.a s.ccr).1, ccr := (f s.a s.ccr).2, bus := (accOp .a f s).bus } := by
  apply State.eq_of_fields <;> simp [accOp]

theorem pullAcc_a_eq (s : State) :
    pullAcc .a s = { s with a := (s.dummyRead.idle s.sp).pullData, sp := s.sp + 1, bus := (pullAcc .a s).bus } := by
  apply State.eq_of_fields <;> simp [pullAcc]

theorem binaryOp_b_eq (m : Src8) (f : Byte → Byte → Ccr → Byte × Ccr) (s : State) :
    binaryOp .b m f s = { s with b := (f s.b (m.value s) s.ccr).1, ccr := (f s.b (m.value s) s.ccr).2, bus := (binaryOp .b m f s).bus } := by
  apply State.eq_of_fields <;> simp [binaryOp]

theorem accOp_b_eq (f : Byte → Ccr → Byte × Ccr) (s : State) :
    accOp .b f s = { s with b := (f s.b s.ccr).1, ccr := (f s.b s.ccr).2, bus := (accOp .b f s).bus } := by
  apply State.eq_of_fields <;> simp [accOp]

theorem pullAcc_b_eq (s : State) :
    pullAcc .b s = { s with b := (s.dummyRead.idle s.sp).pullData, sp := s.sp + 1, bus := (pullAcc .b s).bus } := by
  apply State.eq_of_fields <;> simp [pullAcc]

theorem compareOp_eq (r : Acc) (m : Src8) (f : Byte → Byte → Ccr → Ccr) (s : State) :
    compareOp r m f s = { s with ccr := f (s.acc r) (m.value s) s.ccr, bus := (compareOp r m f s).bus } := by
  apply State.eq_of_fields <;> simp [compareOp]

theorem memOp_eq (m : IndExt) (f : Byte → Ccr → Byte × Ccr) (s : State) :
    memOp m f s = { s with ccr := (f (m.toMem.value s) s.ccr).2, bus := (memOp m f s).bus } := by
  apply State.eq_of_fields <;> simp [memOp]

theorem accTest_eq (r : Acc) (s : State) :
    accTest r s = { s with ccr := tstFlags (s.acc r) s.ccr, bus := (accTest r s).bus } := by
  apply State.eq_of_fields <;> simp [accTest]

theorem memTest_eq (m : IndExt) (s : State) :
    memTest m s = { s with ccr := tstFlags (m.toMem.value s) s.ccr, bus := (memTest m s).bus } := by
  apply State.eq_of_fields <;> simp [memTest]

theorem storeAcc_eq (r : Acc) (m : Mem) (s : State) :
    storeAcc r m s = { s with ccr := logicFlags (s.acc r) s.ccr, bus := (storeAcc r m s).bus } := by
  apply State.eq_of_fields <;> simp [storeAcc]

theorem storeWord_eq (w : Word) (m : Mem) (s : State) :
    storeWord w m s = { s with ccr := wordFlags w s.ccr, bus := (storeWord w m s).bus } := by
  apply State.eq_of_fields <;> simp [storeWord]

theorem pushAcc_eq (r : Acc) (s : State) :
    pushAcc r s = { s with sp := s.sp - 1, bus := (pushAcc r s).bus } := by
  apply State.eq_of_fields <;> simp [pushAcc]

theorem flagOp_eq (f : Ccr → Ccr) (s : State) :
    flagOp f s = { s with ccr := f s.ccr, bus := (flagOp f s).bus } := by
  apply State.eq_of_fields <;> simp [flagOp]

theorem indexOp_eq (old new : Word) (s : State) :
    indexOp old new s = { s with x := new, bus := (indexOp old new s).bus } := by
  apply State.eq_of_fields <;> simp [indexOp]

theorem stackPointerOp_eq (old new : Word) (s : State) :
    stackPointerOp old new s = { s with sp := new, bus := (stackPointerOp old new s).bus } := by
  apply State.eq_of_fields <;> simp [stackPointerOp]

theorem branchIf_eq (c : Bool) (rel : Byte) (s : State) :
    branchIf c rel s = { s with pc := if c then branchTarget s rel else s.pc, bus := (branchIf c rel s).bus } := by
  cases c <;> apply State.eq_of_fields <;> simp [branchIf]

theorem State.stackRegisters_eq (s : State) :
    s.stackRegisters = { s with sp := s.sp - 7, bus := (s.stackRegisters).bus } := by
  apply State.eq_of_fields <;> simp []

theorem State.takeInterrupt_eq (v : InterruptVector) (s : State) :
    s.takeInterrupt v = { s with 
      sp := s.sp - 7, ccr := { s.ccr with i := true },
      pc := (s.stackRegisters.vectorGap v).readWord v.addr, bus := (s.takeInterrupt v).bus } := by
  apply State.eq_of_fields <;> simp []

theorem State.enterHandler_eq (v : InterruptVector) (s : State) :
    s.enterHandler v = { s with ccr := { s.ccr with i := true }, pc := s.readWord v.addr, bus := (s.enterHandler v).bus } := by
  apply State.eq_of_fields <;> simp []

/-! ## The rows of each shape, after the fetch -/

theorem binaryOp_runs (r : Acc) (m : Src8) (f : Byte → Byte → Ccr → Byte × Ccr) (s : State) :
    s.bus.Runs (m.rows s) (binaryOp r m f s).bus := by
  simpa [binaryOp] using m.access_runs s

theorem compareOp_runs (r : Acc) (m : Src8) (f : Byte → Byte → Ccr → Ccr) (s : State) :
    s.bus.Runs (m.rows s) (compareOp r m f s).bus := by
  simpa [compareOp] using m.access_runs s

theorem accOp_runs (r : Acc) (f : Byte → Ccr → Byte × Ccr) (s : State) :
    s.bus.Runs [.read s.pc] (accOp r f s).bus := by
  simpa [accOp] using s.dummyRead_runs

theorem memOp_runs (m : IndExt) (f : Byte → Ccr → Byte × Ccr) (s : State) :
    s.bus.Runs (m.toMem.addressRows s ++ [.read (m.toMem.ea s)] ++ [.none (m.toMem.ea s)] ++
      [.write (m.toMem.ea s) (f (m.toMem.value s) s.ccr).1]) (memOp m f s).bus :=
  ((m.toMem.load_runs s).none _).write _ _

theorem accTest_runs (r : Acc) (s : State) : s.bus.Runs [.read s.pc] (accTest r s).bus :=
  s.dummyRead_runs

theorem memTest_runs (m : IndExt) (s : State) :
    s.bus.Runs (m.toMem.addressRows s ++ [.read (m.toMem.ea s)] ++ [.none (m.toMem.ea s)] ++
      [.noWrite (m.toMem.ea s)]) (memTest m s).bus :=
  ((m.toMem.load_runs s).none _).noWrite _

theorem storeAcc_runs (r : Acc) (m : Mem) (s : State) :
    s.bus.Runs (m.addressRows s ++ [.none (m.ea s)] ++ [.write (m.ea s) (s.acc r)])
      (storeAcc r m s).bus :=
  ((m.address_runs s).none _).write _ _

theorem storeWord_runs (w : Word) (m : Mem) (s : State) :
    s.bus.Runs (m.addressRows s ++ [.none (m.ea s)] ++
      [.write (m.ea s) (hi8 w), .write (m.ea s + 1) (lo8 w)]) (storeWord w m s).bus :=
  ((m.address_runs s).trans ((m.address s).idle_runs _)).trans (State.writeWord_runs _ _ _)

theorem pushAcc_runs (r : Acc) (s : State) :
    s.bus.Runs [.read s.pc, .write s.sp (s.acc r), .shows (s.sp - 1) (s.acc r)]
      (pushAcc r s).bus :=
  (s.dummyRead_runs.write s.sp (s.acc r)).shows (s.sp - 1) (s.acc r)

theorem pullAcc_runs (r : Acc) (s : State) :
    s.bus.Runs [.read s.pc, .none s.sp, .read (s.sp + 1)] (pullAcc r s).bus := by
  simpa [pullAcc] using
    (s.dummyRead_runs.trans (s.dummyRead.idle_runs s.sp)).trans (State.pull8_runs _)

theorem flagOp_runs (f : Ccr → Ccr) (s : State) : s.bus.Runs [.read s.pc] (flagOp f s).bus :=
  s.dummyRead_runs

theorem indexOp_runs (old new : Word) (s : State) :
    s.bus.Runs [.read s.pc, .none old, .none new] (indexOp old new s).bus :=
  (s.dummyRead_runs.none old).none new

theorem stackPointerOp_runs (old new : Word) (s : State) :
    s.bus.Runs [.read s.pc, .none old, .none new] (stackPointerOp old new s).bus :=
  (s.dummyRead_runs.none old).none new

theorem branchIf_runs (c : Bool) (rel : Byte) (s : State) :
    s.bus.Runs [.none s.pc, .none (branchTarget s rel)] (branchIf c rel s).bus := by
  cases c <;> exact (s.idle_runs s.pc).none _

/-- The rows of JSR after the fetch, by its form (R59, R62). -/
def jsrRows (s : State) : IndExt → List Row
  | .ind o => [.none s.x, .write s.sp (lo8 s.pc), .write (s.sp - 1) (hi8 s.pc),
      .none (s.sp - 2), .none s.x, .none (sumWithoutCarry s.x o)]
  | .ext a => [.read a, .write s.sp (lo8 s.pc), .write (s.sp - 1) (hi8 s.pc),
      .none (s.sp - 2), .none (s.pc - 1), .read (s.pc - 1)]

theorem execJsr_runs {m : IndExt} {s t : State} (h : execJsr m s = .next t) :
    s.bus.Runs (jsrRows s m) t.bus := by
  cases m with
  | ind o =>
    cases h
    exact (((((s.idle_runs s.x).trans (State.pushWord_runs _ s.pc)).none _).none _).none _)
  | ext a =>
    have h1 := ((((s.readCycle_runs a).trans (State.pushWord_runs _ s.pc)).none (s.sp - 2)).none
      (s.pc - 1)).read (s.pc - 1)
    simp only [execJsr] at h
    split at h <;> (cases h; exact h1)

theorem execBsr_runs {rel : Byte} {s t : State} (h : execBsr rel s = .next t) :
    s.bus.Runs [.none s.pc, .write s.sp (lo8 s.pc), .write (s.sp - 1) (hi8 s.pc),
      .none (s.sp - 2), .none s.pc, .none (branchTarget s rel)] t.bus := by
  cases h
  exact (((((s.idle_runs s.pc).trans (State.pushWord_runs _ s.pc)).none _).none _).none _)

theorem execRts_runs {s t : State} (h : execRts s = .next t) :
    s.bus.Runs [.read s.pc, .none s.sp, .read (s.sp + 1), .read (s.sp + 2)] t.bus := by
  cases h
  exact (s.dummyRead_runs.trans (s.dummyRead.idle_runs s.sp)).trans (State.pullWord_runs _)

theorem execJmp_runs {m : IndExt} {s t : State} (h : execJmp m s = .next t) :
    s.bus.Runs (m.toMem.addressRows s) t.bus := by
  cases h
  exact m.toMem.address_runs s

/-- An instruction changes the bus by cycles only. -/
theorem exec_runs {i : Instr} {s t : State} (h : exec i s = .next t) :
    ∃ rows, s.bus.Runs rows t.bus := by
  cases i
  case jsr => exact ⟨_, execJsr_runs h⟩
  case bsr => exact ⟨_, execBsr_runs h⟩
  case rts => exact ⟨_, execRts_runs h⟩
  case jmp => exact ⟨_, execJmp_runs h⟩
  case unassigned => cases h
  case cpx m | ldx m | lds m => cases h; exact ⟨_, m.access_runs s⟩
  case nop | tap | tpa | cli => cases h; exact ⟨_, s.dummyRead_runs⟩
  case daa => cases h; exact ⟨_, accOp_runs .a (daa8 · (Config.freeBit s.draws)) s⟩
  case rti => cases h; exact ⟨_, s.dummyRead_runs.trans (State.returnFromInterrupt_runs _)⟩
  case wai => cases h; exact ⟨_, s.dummyRead_runs.trans (State.stackRegisters_runs _)⟩
  case swi => cases h; exact ⟨_, s.dummyRead_runs.trans (State.takeInterrupt_runs _ _)⟩
  case sba | aba | negA | decA | incA | negB | decB | incB | comA | lsrA | rorA | asrA | aslA |
    rolA | clrA | comB | lsrB | rorB | asrB | aslB | rolB | clrB | tab | tba =>
    cases h; exact ⟨_, accOp_runs _ _ s⟩
  case cba | clv | sev | clc | sec | sei =>
    cases h; exact ⟨_, flagOp_runs _ s⟩
  case neg | dec | inc | com | lsr | ror | asr | asl | rol | clr =>
    cases h; exact ⟨_, memOp_runs _ _ s⟩
  case subA | sbcA | adcA | addA | subB | sbcB | adcB | addB | andA | eorA | oraA | andB | eorB
    | oraB | ldaA | ldaB =>
    cases h; exact ⟨_, binaryOp_runs _ _ _ s⟩
  case cmpA | cmpB | bitA | bitB =>
    cases h; exact ⟨_, compareOp_runs _ _ _ s⟩
  case tstA | tstB =>
    cases h; exact ⟨_, accTest_runs _ s⟩
  case tst =>
    cases h; exact ⟨_, memTest_runs _ s⟩
  case pulA | pulB =>
    cases h; exact ⟨_, pullAcc_runs _ s⟩
  case pshA | pshB =>
    cases h; exact ⟨_, pushAcc_runs _ s⟩
  case staA | staB =>
    cases h; exact ⟨_, storeAcc_runs _ _ s⟩
  case inx | dex | tsx =>
    cases h; exact ⟨_, indexOp_runs _ _ s⟩
  case ins | des | txs =>
    cases h; exact ⟨_, stackPointerOp_runs _ _ s⟩
  case sts | stx =>
    cases h; exact ⟨_, storeWord_runs _ _ s⟩
  case bra | bhi | bls | bcc | bcs | bne | beq | bvc | bvs | bpl | bmi | bge | blt | bgt | ble
    =>
    cases h; exact ⟨_, branchIf_runs _ _ s⟩

end Sys2Proof.Machine
end

