-- ==== Sys2Proof/Laws/Boundary.lean ====
section
/-! SUPPORT. What one boundary can do. A proof about `step` starts from `step_of_no_reset` or `step_cases`
and the value of `action`. -/

namespace Sys2Proof.Machine.State

/-! ### sampled -/

@[simp] theorem sampled_a (s : State) : s.sampled.a = s.a := rfl
@[simp] theorem sampled_b (s : State) : s.sampled.b = s.b := rfl
@[simp] theorem sampled_x (s : State) : s.sampled.x = s.x := rfl
@[simp] theorem sampled_sp (s : State) : s.sampled.sp = s.sp := rfl
@[simp] theorem sampled_pc (s : State) : s.sampled.pc = s.pc := rfl
@[simp] theorem sampled_ccr (s : State) : s.sampled.ccr = s.ccr := rfl
@[simp] theorem sampled_run (s : State) : s.sampled.run = s.run := rfl
@[simp] theorem sampled_nmiPending (s : State) : s.sampled.nmiPending = s.nmiLatched := rfl
@[simp] theorem sampled_irqInhibit (s : State) : s.sampled.irqInhibit = s.irqInhibit := rfl
@[simp] theorem sampled_irqLatchedInHalt (s : State) :
    s.sampled.irqLatchedInHalt = s.irqLatchedInHalt := rfl
@[simp] theorem sampled_lines (s : State) : s.sampled.lines = s.sample.lines := rfl
@[simp] theorem sampled_env (s : State) : s.sampled.env = s.env.tail := rfl
@[simp] theorem sampled_draws (s : State) : s.sampled.draws = s.draws := rfl
@[simp] theorem sampled_bus (s : State) : s.sampled.bus =
    { s.bus with mem := s.afterDma, inputs := s.sample.cycles, record := [] } := rfl

@[simp] theorem onBus_bus (s : State) : s.onBus.bus = s.sampled.bus := rfl
@[simp] theorem onBus_a (s : State) : s.onBus.a = s.a := rfl
@[simp] theorem onBus_b (s : State) : s.onBus.b = s.b := rfl
@[simp] theorem onBus_x (s : State) : s.onBus.x = s.x := rfl
@[simp] theorem onBus_sp (s : State) : s.onBus.sp = s.sp := rfl
@[simp] theorem onBus_pc (s : State) : s.onBus.pc = s.pc := rfl
@[simp] theorem onBus_ccr (s : State) : s.onBus.ccr = s.ccr := rfl
@[simp] theorem onBus_run (s : State) : s.onBus.run = s.run := rfl

/-- An empty environment keeps the lines and adds nothing. -/
theorem sample_of_env_nil {s : State} (h : s.env = []) :
    s.sample = { lines := s.lines, nmiPulse := false, dma := [], cycles := [], resetAfter := none } := by
  simp [sample, h]

/-- Where the bus is not released, no other master writes (R72, R73). -/
theorem afterDma_of_not_released {s : State} (h : s.busReleased = false) : s.afterDma = s.mem := by
  simp [afterDma, h]

theorem afterDma_wf {s : State} (h : s.mem.wf = true) : s.afterDma.wf = true := by
  unfold afterDma; split
  · exact Memory.wf_storeAll _ _ _ h
  · exact h

/-! ### Requests and what they lead to -/

theorem nmiRequested_iff {s : State} :
    NmiRequested s ↔ s.nmiPending = true ∨ s.nmiEdge = true := by
  simp [NmiRequested, nmiEdge]

/-- Outside reset the latch after the sample holds what is requested (R27, R300). -/
theorem nmiLatched_iff {s : State} (hl : s.sample.lines.reset = .high) (hr : s.run ≠ .inReset) :
    s.nmiLatched = true ↔ NmiRequested s := by
  simp [nmiRequested_iff, nmiLatched, hl, hr]

theorem irqRequested_sampled_iff {s : State} :
    s.sampled.irqRequested = true ↔ IrqRequested s := by
  unfold irqRequested
  rw [Bool.or_eq_true, decide_eq_true_eq]
  rfl

/-- An NMI request comes first (R282). -/
theorem action_of_nmi {s : State} (ho : OpenBoundary s) (hr : s.run = .running ∨ s.run = .halted)
    (hn : NmiRequested s) : s.sampled.action = .interrupt .nmi := by
  have hl := (nmiLatched_iff ho.2.2.1 (by rcases hr with h | h <;> simp [h])).2 hn
  obtain ⟨-, h2, h3, h4⟩ := ho
  rcases hr with h | h <;> simp [action, h2, h3, h4, h, hl]

/-- Then an IRQ request that is neither masked nor delayed (R282). -/
theorem action_of_irq {s : State} (ho : OpenBoundary s) (hr : s.run = .running ∨ s.run = .halted)
    (hn : ¬NmiRequested s) (hi : IrqRequested s) (hc : s.ccr.i = false) (hd : s.irqInhibit = false) :
    s.sampled.action = .interrupt .irq := by
  have hl := mt (nmiLatched_iff ho.2.2.1 (by rcases hr with h | h <;> simp [h])).1 hn
  have hq := irqRequested_sampled_iff.2 hi
  obtain ⟨-, h2, h3, h4⟩ := ho
  rcases hr with h | h <;> simp [action, h2, h3, h4, h, hl, hq, hc, hd]

/-- With no request that is answered, the next instruction executes (R282). -/
theorem action_of_no_request {s : State} (ho : OpenBoundary s)
    (hr : s.run = .running ∨ s.run = .halted) (hn : ¬NmiRequested s)
    (hi : IrqRequested s → s.ccr.i = true ∨ s.irqInhibit = true) :
    s.sampled.action = .execute := by
  have hl := mt (nmiLatched_iff ho.2.2.1 (by rcases hr with h | h <;> simp [h])).1 hn
  rw [← irqRequested_sampled_iff] at hi
  obtain ⟨-, h2, h3, h4⟩ := ho
  cases hq : s.sampled.irqRequested
  · rcases hr with h | h <;> simp [action, h2, h3, h4, h, hl, hq]
  · rcases hr with h | h <;> rcases hi hq with h5 | h5 <;> simp [action, h2, h3, h4, h, hl, hq, h5]

/-! ### readyToExecute, latchIrq, halt, freeze -/

theorem readyToExecute_eq (s : State) : s.readyToExecute = { s with
    irqLatchedInHalt := s.irqLatchedInHalt && !s.ccr.i, irqInhibit := false, run := .running } := rfl

theorem latchIrq_eq (s : State) : s.latchIrq = { s with
    irqLatchedInHalt := s.irqLatchedInHalt || decide (s.lines.irq = .low) } := rfl

theorem halt_eq (s : State) : s.halt = { s with
    run := if s.run = .running then .halted else s.run
    irqLatchedInHalt := s.irqLatchedInHalt || decide (s.lines.irq = .low) } := by
  unfold halt; split <;> simp_all only [latchIrq_eq, setRun]

theorem freeze_eq (s : State) : s.freeze = { s with
    irqLatchedInHalt := s.irqLatchedInHalt || (decide (s.lines.irq = .low) &&
      decide (s.lines.halt = .low) && (decide (s.run = .halted) || decide (s.run = .waiting))) } := by
  unfold freeze
  split
  · next h => rcases h with ⟨h1, h2 | h2⟩ <;> simp [latchIrq_eq, h1, h2]
  · next h =>
    apply eq_of_fields <;> try rfl
    cases hl : s.lines.halt <;> cases hr : s.run <;> simp_all

@[simp] theorem acknowledge_bus (v : InterruptVector) (s : State) :
    (s.acknowledge v).bus = s.bus := by cases v <;> rfl
@[simp] theorem acknowledge_ccr (v : InterruptVector) (s : State) :
    (s.acknowledge v).ccr = s.ccr := by cases v <;> rfl

/-! ### What a boundary does to the bus -/

/-- Every action changes the bus by cycles only. -/
theorem perform_runs {s t : State} {act : Action} (h : s.perform exec act = .next t) :
    ∃ rows, s.bus.Runs rows t.bus := by
  cases act
  case execute =>
    obtain ⟨rows, hr⟩ := exec_runs h
    exact ⟨_, (show s.bus.Runs _ _ from s.readyToExecute.fetchInstr_runs).trans hr⟩
  case interrupt v =>
    cases h
    have := (s.acknowledge v).takeInterrupt_runs v
    rw [acknowledge_bus] at this
    exact ⟨_, this⟩
  case wake v =>
    cases h
    have := (s.acknowledge v).enterHandler_runs v
    rw [acknowledge_bus] at this
    exact ⟨_, this⟩
  case leaveReset => cases h; exact ⟨_, s.resetSequence_runs⟩
  case holdHalt => cases h; exact ⟨[], by rw [halt_eq]; exact .refl⟩
  case frozen => cases h; exact ⟨[], by rw [freeze_eq]; exact .refl⟩
  all_goals (cases h; exact ⟨[], .refl⟩)

/-- A step in which RESET does not fall is its action. -/
theorem step_of_no_reset {s : State} (h : s.sample.resetAfter = none) :
    step s = s.sampled.perform exec s.sampled.action := by
  unfold step atBoundary
  rw [h]

/-- All that a step can do when it gives a next state: its action; or its action cut short by RESET; or,
where the action refuses, the fetch cut short by RESET. -/
theorem step_cases {s t : State} (h : step s = .next t) :
    (s.sample.resetAfter = none ∧ s.sampled.perform exec s.sampled.action = .next t) ∨
    (∃ k u, s.sample.resetAfter = some k ∧ s.sampled.perform exec s.sampled.action = .next u ∧
      t = s.sampled.cutByReset k u) ∨
    (∃ k, s.sample.resetAfter = some k ∧ (∀ u, s.sampled.perform exec s.sampled.action ≠ .next u) ∧
      t = s.sampled.cutByReset k s.sampled.readyToExecute.fetchInstr.2) := by
  unfold step atBoundary at h
  dsimp only at h
  split at h
  · next hk => exact .inl ⟨hk, h⟩
  · next k hk =>
    cases hp : s.sampled.perform exec s.sampled.action with
    | next u =>
      rw [hp] at h
      cases h
      exact .inr (.inl ⟨k, u, hk, rfl, rfl⟩)
    | fault e => exact nomatch e
    | refused r =>
      rw [hp] at h
      simp only [cutStep] at h
      split at h
      · cases h
        exact .inr (.inr ⟨k, hk, fun u hu => (nomatch hu), rfl⟩)
      · exact nomatch h

/-- A step cut short keeps the canonical form of memory. -/
theorem cutByReset_wf {s : State} (k : Nat) (t : State) (h : s.mem.wf = true) :
    (s.cutByReset k t).mem.wf = true := wf_replay _ _ _ h

/-! ### A quiet machine -/

/-- What executes on an undisturbed machine: the boundary adds nothing (R300). -/
theorem step_quiet {s : State} (he : s.env = []) (hl : s.lines = Lines.idle) (hr : s.run = .running)
    (hn : s.nmiPending = false) (hq : s.irqLatchedInHalt = false) (hi : s.irqInhibit = false)
    (hb : s.bus.record = []) (hc : s.bus.inputs = []) : step s = s.fetchAndRun exec := by
  have hs := sample_of_env_nil he
  have hsam : s.sampled = s := by
    apply State.eq_of_fields <;>
      simp [hs, he, hl, hn, nmiLatched, nmiEdge, afterDma, busReleased, hr, Lines.idle, mem]
    rw [← hb, ← hc]
  have hact : s.action = .execute := by
    simp [action, hl, Lines.idle, hr, hn, irqRequested, hq]
  have hready : s.readyToExecute = s := by
    apply State.eq_of_fields <;> simp [readyToExecute_eq, hq, hi, hr]
  rw [step_of_no_reset (by simp [hs]), hsam, hact]
  show s.readyToExecute.fetchAndRun exec = _
  rw [hready]

end Sys2Proof.Machine.State
end

