-- ==== Sys2Proof/Laws/PerInstr.lean ====
section
/-! SUPPORT. Facts about instructions as syntax, one lemma for each constructor of `Instr`. -/

namespace Sys2Proof.Laws.EncodedLength

/-- An instruction is one, two or three bytes long, and its first byte alone says how many operand
bytes follow (R80, R81). -/
def Statement (i : Instr) : Prop :=
  i.wf = true → 1 ≤ i.length ∧ i.length ≤ 3 ∧
    i.length = 1 + (opcodeCell ((encode i).headD 0)).operandBytes

theorem of_opcode {i : Instr} (op : Byte) (n : Nat) (hn : n ≤ 2) (ho : (encode i).headD 0 = op)
    (hl : i.length = 1 + n) (hc : (opcodeCell op).operandBytes = n) : Statement i := by
  intro _; rw [ho, hc]; omega

theorem nop : Statement .nop := of_opcode 0x01 0 (by decide) rfl rfl rfl
theorem tap : Statement .tap := of_opcode 0x06 0 (by decide) rfl rfl rfl
theorem tpa : Statement .tpa := of_opcode 0x07 0 (by decide) rfl rfl rfl
theorem inx : Statement .inx := of_opcode 0x08 0 (by decide) rfl rfl rfl
theorem dex : Statement .dex := of_opcode 0x09 0 (by decide) rfl rfl rfl
theorem clv : Statement .clv := of_opcode 0x0A 0 (by decide) rfl rfl rfl
theorem sev : Statement .sev := of_opcode 0x0B 0 (by decide) rfl rfl rfl
theorem clc : Statement .clc := of_opcode 0x0C 0 (by decide) rfl rfl rfl
theorem sec : Statement .sec := of_opcode 0x0D 0 (by decide) rfl rfl rfl
theorem cli : Statement .cli := of_opcode 0x0E 0 (by decide) rfl rfl rfl
theorem sei : Statement .sei := of_opcode 0x0F 0 (by decide) rfl rfl rfl
theorem sba : Statement .sba := of_opcode 0x10 0 (by decide) rfl rfl rfl
theorem cba : Statement .cba := of_opcode 0x11 0 (by decide) rfl rfl rfl
theorem tab : Statement .tab := of_opcode 0x16 0 (by decide) rfl rfl rfl
theorem tba : Statement .tba := of_opcode 0x17 0 (by decide) rfl rfl rfl
theorem daa : Statement .daa := of_opcode 0x19 0 (by decide) rfl rfl rfl
theorem aba : Statement .aba := of_opcode 0x1B 0 (by decide) rfl rfl rfl
theorem bra (rel : Byte) : Statement (.bra rel) := of_opcode 0x20 1 (by decide) rfl rfl rfl
theorem bhi (rel : Byte) : Statement (.bhi rel) := of_opcode 0x22 1 (by decide) rfl rfl rfl
theorem bls (rel : Byte) : Statement (.bls rel) := of_opcode 0x23 1 (by decide) rfl rfl rfl
theorem bcc (rel : Byte) : Statement (.bcc rel) := of_opcode 0x24 1 (by decide) rfl rfl rfl
theorem bcs (rel : Byte) : Statement (.bcs rel) := of_opcode 0x25 1 (by decide) rfl rfl rfl
theorem bne (rel : Byte) : Statement (.bne rel) := of_opcode 0x26 1 (by decide) rfl rfl rfl
theorem beq (rel : Byte) : Statement (.beq rel) := of_opcode 0x27 1 (by decide) rfl rfl rfl
theorem bvc (rel : Byte) : Statement (.bvc rel) := of_opcode 0x28 1 (by decide) rfl rfl rfl
theorem bvs (rel : Byte) : Statement (.bvs rel) := of_opcode 0x29 1 (by decide) rfl rfl rfl
theorem bpl (rel : Byte) : Statement (.bpl rel) := of_opcode 0x2A 1 (by decide) rfl rfl rfl
theorem bmi (rel : Byte) : Statement (.bmi rel) := of_opcode 0x2B 1 (by decide) rfl rfl rfl
theorem bge (rel : Byte) : Statement (.bge rel) := of_opcode 0x2C 1 (by decide) rfl rfl rfl
theorem blt (rel : Byte) : Statement (.blt rel) := of_opcode 0x2D 1 (by decide) rfl rfl rfl
theorem bgt (rel : Byte) : Statement (.bgt rel) := of_opcode 0x2E 1 (by decide) rfl rfl rfl
theorem ble (rel : Byte) : Statement (.ble rel) := of_opcode 0x2F 1 (by decide) rfl rfl rfl
theorem tsx : Statement .tsx := of_opcode 0x30 0 (by decide) rfl rfl rfl
theorem ins : Statement .ins := of_opcode 0x31 0 (by decide) rfl rfl rfl
theorem pulA : Statement .pulA := of_opcode 0x32 0 (by decide) rfl rfl rfl
theorem pulB : Statement .pulB := of_opcode 0x33 0 (by decide) rfl rfl rfl
theorem des : Statement .des := of_opcode 0x34 0 (by decide) rfl rfl rfl
theorem txs : Statement .txs := of_opcode 0x35 0 (by decide) rfl rfl rfl
theorem pshA : Statement .pshA := of_opcode 0x36 0 (by decide) rfl rfl rfl
theorem pshB : Statement .pshB := of_opcode 0x37 0 (by decide) rfl rfl rfl
theorem rts : Statement .rts := of_opcode 0x39 0 (by decide) rfl rfl rfl
theorem rti : Statement .rti := of_opcode 0x3B 0 (by decide) rfl rfl rfl
theorem wai : Statement .wai := of_opcode 0x3E 0 (by decide) rfl rfl rfl
theorem swi : Statement .swi := of_opcode 0x3F 0 (by decide) rfl rfl rfl
theorem negA : Statement .negA := of_opcode 0x40 0 (by decide) rfl rfl rfl
theorem comA : Statement .comA := of_opcode 0x43 0 (by decide) rfl rfl rfl
theorem lsrA : Statement .lsrA := of_opcode 0x44 0 (by decide) rfl rfl rfl
theorem rorA : Statement .rorA := of_opcode 0x46 0 (by decide) rfl rfl rfl
theorem asrA : Statement .asrA := of_opcode 0x47 0 (by decide) rfl rfl rfl
theorem aslA : Statement .aslA := of_opcode 0x48 0 (by decide) rfl rfl rfl
theorem rolA : Statement .rolA := of_opcode 0x49 0 (by decide) rfl rfl rfl
theorem decA : Statement .decA := of_opcode 0x4A 0 (by decide) rfl rfl rfl
theorem incA : Statement .incA := of_opcode 0x4C 0 (by decide) rfl rfl rfl
theorem tstA : Statement .tstA := of_opcode 0x4D 0 (by decide) rfl rfl rfl
theorem clrA : Statement .clrA := of_opcode 0x4F 0 (by decide) rfl rfl rfl
theorem negB : Statement .negB := of_opcode 0x50 0 (by decide) rfl rfl rfl
theorem comB : Statement .comB := of_opcode 0x53 0 (by decide) rfl rfl rfl
theorem lsrB : Statement .lsrB := of_opcode 0x54 0 (by decide) rfl rfl rfl
theorem rorB : Statement .rorB := of_opcode 0x56 0 (by decide) rfl rfl rfl
theorem asrB : Statement .asrB := of_opcode 0x57 0 (by decide) rfl rfl rfl
theorem aslB : Statement .aslB := of_opcode 0x58 0 (by decide) rfl rfl rfl
theorem rolB : Statement .rolB := of_opcode 0x59 0 (by decide) rfl rfl rfl
theorem decB : Statement .decB := of_opcode 0x5A 0 (by decide) rfl rfl rfl
theorem incB : Statement .incB := of_opcode 0x5C 0 (by decide) rfl rfl rfl
theorem tstB : Statement .tstB := of_opcode 0x5D 0 (by decide) rfl rfl rfl
theorem clrB : Statement .clrB := of_opcode 0x5F 0 (by decide) rfl rfl rfl
theorem neg : (m : IndExt) → Statement (.neg m)
  | .ind _ => of_opcode 0x60 1 (by decide) rfl rfl rfl
  | .ext _ => of_opcode 0x70 2 (by decide) rfl rfl rfl
theorem com : (m : IndExt) → Statement (.com m)
  | .ind _ => of_opcode 0x63 1 (by decide) rfl rfl rfl
  | .ext _ => of_opcode 0x73 2 (by decide) rfl rfl rfl
theorem lsr : (m : IndExt) → Statement (.lsr m)
  | .ind _ => of_opcode 0x64 1 (by decide) rfl rfl rfl
  | .ext _ => of_opcode 0x74 2 (by decide) rfl rfl rfl
theorem ror : (m : IndExt) → Statement (.ror m)
  | .ind _ => of_opcode 0x66 1 (by decide) rfl rfl rfl
  | .ext _ => of_opcode 0x76 2 (by decide) rfl rfl rfl
theorem asr : (m : IndExt) → Statement (.asr m)
  | .ind _ => of_opcode 0x67 1 (by decide) rfl rfl rfl
  | .ext _ => of_opcode 0x77 2 (by decide) rfl rfl rfl
theorem asl : (m : IndExt) → Statement (.asl m)
  | .ind _ => of_opcode 0x68 1 (by decide) rfl rfl rfl
  | .ext _ => of_opcode 0x78 2 (by decide) rfl rfl rfl
theorem rol : (m : IndExt) → Statement (.rol m)
  | .ind _ => of_opcode 0x69 1 (by decide) rfl rfl rfl
  | .ext _ => of_opcode 0x79 2 (by decide) rfl rfl rfl
theorem dec : (m : IndExt) → Statement (.dec m)
  | .ind _ => of_opcode 0x6A 1 (by decide) rfl rfl rfl
  | .ext _ => of_opcode 0x7A 2 (by decide) rfl rfl rfl
theorem inc : (m : IndExt) → Statement (.inc m)
  | .ind _ => of_opcode 0x6C 1 (by decide) rfl rfl rfl
  | .ext _ => of_opcode 0x7C 2 (by decide) rfl rfl rfl
theorem tst : (m : IndExt) → Statement (.tst m)
  | .ind _ => of_opcode 0x6D 1 (by decide) rfl rfl rfl
  | .ext _ => of_opcode 0x7D 2 (by decide) rfl rfl rfl
theorem jmp : (m : IndExt) → Statement (.jmp m)
  | .ind _ => of_opcode 0x6E 1 (by decide) rfl rfl rfl
  | .ext _ => of_opcode 0x7E 2 (by decide) rfl rfl rfl
theorem clr : (m : IndExt) → Statement (.clr m)
  | .ind _ => of_opcode 0x6F 1 (by decide) rfl rfl rfl
  | .ext _ => of_opcode 0x7F 2 (by decide) rfl rfl rfl
theorem subA : (m : Src8) → Statement (.subA m)
  | .imm _ => of_opcode 0x80 1 (by decide) rfl rfl rfl
  | .mem (.dir _) => of_opcode 0x90 1 (by decide) rfl rfl rfl
  | .mem (.ind _) => of_opcode 0xA0 1 (by decide) rfl rfl rfl
  | .mem (.ext _) => of_opcode 0xB0 2 (by decide) rfl rfl rfl
theorem cmpA : (m : Src8) → Statement (.cmpA m)
  | .imm _ => of_opcode 0x81 1 (by decide) rfl rfl rfl
  | .mem (.dir _) => of_opcode 0x91 1 (by decide) rfl rfl rfl
  | .mem (.ind _) => of_opcode 0xA1 1 (by decide) rfl rfl rfl
  | .mem (.ext _) => of_opcode 0xB1 2 (by decide) rfl rfl rfl
theorem sbcA : (m : Src8) → Statement (.sbcA m)
  | .imm _ => of_opcode 0x82 1 (by decide) rfl rfl rfl
  | .mem (.dir _) => of_opcode 0x92 1 (by decide) rfl rfl rfl
  | .mem (.ind _) => of_opcode 0xA2 1 (by decide) rfl rfl rfl
  | .mem (.ext _) => of_opcode 0xB2 2 (by decide) rfl rfl rfl
theorem andA : (m : Src8) → Statement (.andA m)
  | .imm _ => of_opcode 0x84 1 (by decide) rfl rfl rfl
  | .mem (.dir _) => of_opcode 0x94 1 (by decide) rfl rfl rfl
  | .mem (.ind _) => of_opcode 0xA4 1 (by decide) rfl rfl rfl
  | .mem (.ext _) => of_opcode 0xB4 2 (by decide) rfl rfl rfl
theorem bitA : (m : Src8) → Statement (.bitA m)
  | .imm _ => of_opcode 0x85 1 (by decide) rfl rfl rfl
  | .mem (.dir _) => of_opcode 0x95 1 (by decide) rfl rfl rfl
  | .mem (.ind _) => of_opcode 0xA5 1 (by decide) rfl rfl rfl
  | .mem (.ext _) => of_opcode 0xB5 2 (by decide) rfl rfl rfl
theorem ldaA : (m : Src8) → Statement (.ldaA m)
  | .imm _ => of_opcode 0x86 1 (by decide) rfl rfl rfl
  | .mem (.dir _) => of_opcode 0x96 1 (by decide) rfl rfl rfl
  | .mem (.ind _) => of_opcode 0xA6 1 (by decide) rfl rfl rfl
  | .mem (.ext _) => of_opcode 0xB6 2 (by decide) rfl rfl rfl
theorem eorA : (m : Src8) → Statement (.eorA m)
  | .imm _ => of_opcode 0x88 1 (by decide) rfl rfl rfl
  | .mem (.dir _) => of_opcode 0x98 1 (by decide) rfl rfl rfl
  | .mem (.ind _) => of_opcode 0xA8 1 (by decide) rfl rfl rfl
  | .mem (.ext _) => of_opcode 0xB8 2 (by decide) rfl rfl rfl
theorem adcA : (m : Src8) → Statement (.adcA m)
  | .imm _ => of_opcode 0x89 1 (by decide) rfl rfl rfl
  | .mem (.dir _) => of_opcode 0x99 1 (by decide) rfl rfl rfl
  | .mem (.ind _) => of_opcode 0xA9 1 (by decide) rfl rfl rfl
  | .mem (.ext _) => of_opcode 0xB9 2 (by decide) rfl rfl rfl
theorem oraA : (m : Src8) → Statement (.oraA m)
  | .imm _ => of_opcode 0x8A 1 (by decide) rfl rfl rfl
  | .mem (.dir _) => of_opcode 0x9A 1 (by decide) rfl rfl rfl
  | .mem (.ind _) => of_opcode 0xAA 1 (by decide) rfl rfl rfl
  | .mem (.ext _) => of_opcode 0xBA 2 (by decide) rfl rfl rfl
theorem addA : (m : Src8) → Statement (.addA m)
  | .imm _ => of_opcode 0x8B 1 (by decide) rfl rfl rfl
  | .mem (.dir _) => of_opcode 0x9B 1 (by decide) rfl rfl rfl
  | .mem (.ind _) => of_opcode 0xAB 1 (by decide) rfl rfl rfl
  | .mem (.ext _) => of_opcode 0xBB 2 (by decide) rfl rfl rfl
theorem cpx : (m : Src16) → Statement (.cpx m)
  | .imm _ => of_opcode 0x8C 2 (by decide) rfl rfl rfl
  | .mem (.dir _) => of_opcode 0x9C 1 (by decide) rfl rfl rfl
  | .mem (.ind _) => of_opcode 0xAC 1 (by decide) rfl rfl rfl
  | .mem (.ext _) => of_opcode 0xBC 2 (by decide) rfl rfl rfl
theorem bsr (rel : Byte) : Statement (.bsr rel) := of_opcode 0x8D 1 (by decide) rfl rfl rfl
theorem lds : (m : Src16) → Statement (.lds m)
  | .imm _ => of_opcode 0x8E 2 (by decide) rfl rfl rfl
  | .mem (.dir _) => of_opcode 0x9E 1 (by decide) rfl rfl rfl
  | .mem (.ind _) => of_opcode 0xAE 1 (by decide) rfl rfl rfl
  | .mem (.ext _) => of_opcode 0xBE 2 (by decide) rfl rfl rfl
theorem staA : (m : Mem) → Statement (.staA m)
  | .dir _ => of_opcode 0x97 1 (by decide) rfl rfl rfl
  | .ind _ => of_opcode 0xA7 1 (by decide) rfl rfl rfl
  | .ext _ => of_opcode 0xB7 2 (by decide) rfl rfl rfl
theorem sts : (m : Mem) → Statement (.sts m)
  | .dir _ => of_opcode 0x9F 1 (by decide) rfl rfl rfl
  | .ind _ => of_opcode 0xAF 1 (by decide) rfl rfl rfl
  | .ext _ => of_opcode 0xBF 2 (by decide) rfl rfl rfl
theorem jsr : (m : IndExt) → Statement (.jsr m)
  | .ind _ => of_opcode 0xAD 1 (by decide) rfl rfl rfl
  | .ext _ => of_opcode 0xBD 2 (by decide) rfl rfl rfl
theorem subB : (m : Src8) → Statement (.subB m)
  | .imm _ => of_opcode 0xC0 1 (by decide) rfl rfl rfl
  | .mem (.dir _) => of_opcode 0xD0 1 (by decide) rfl rfl rfl
  | .mem (.ind _) => of_opcode 0xE0 1 (by decide) rfl rfl rfl
  | .mem (.ext _) => of_opcode 0xF0 2 (by decide) rfl rfl rfl
theorem cmpB : (m : Src8) → Statement (.cmpB m)
  | .imm _ => of_opcode 0xC1 1 (by decide) rfl rfl rfl
  | .mem (.dir _) => of_opcode 0xD1 1 (by decide) rfl rfl rfl
  | .mem (.ind _) => of_opcode 0xE1 1 (by decide) rfl rfl rfl
  | .mem (.ext _) => of_opcode 0xF1 2 (by decide) rfl rfl rfl
theorem sbcB : (m : Src8) → Statement (.sbcB m)
  | .imm _ => of_opcode 0xC2 1 (by decide) rfl rfl rfl
  | .mem (.dir _) => of_opcode 0xD2 1 (by decide) rfl rfl rfl
  | .mem (.ind _) => of_opcode 0xE2 1 (by decide) rfl rfl rfl
  | .mem (.ext _) => of_opcode 0xF2 2 (by decide) rfl rfl rfl
theorem andB : (m : Src8) → Statement (.andB m)
  | .imm _ => of_opcode 0xC4 1 (by decide) rfl rfl rfl
  | .mem (.dir _) => of_opcode 0xD4 1 (by decide) rfl rfl rfl
  | .mem (.ind _) => of_opcode 0xE4 1 (by decide) rfl rfl rfl
  | .mem (.ext _) => of_opcode 0xF4 2 (by decide) rfl rfl rfl
theorem bitB : (m : Src8) → Statement (.bitB m)
  | .imm _ => of_opcode 0xC5 1 (by decide) rfl rfl rfl
  | .mem (.dir _) => of_opcode 0xD5 1 (by decide) rfl rfl rfl
  | .mem (.ind _) => of_opcode 0xE5 1 (by decide) rfl rfl rfl
  | .mem (.ext _) => of_opcode 0xF5 2 (by decide) rfl rfl rfl
theorem ldaB : (m : Src8) → Statement (.ldaB m)
  | .imm _ => of_opcode 0xC6 1 (by decide) rfl rfl rfl
  | .mem (.dir _) => of_opcode 0xD6 1 (by decide) rfl rfl rfl
  | .mem (.ind _) => of_opcode 0xE6 1 (by decide) rfl rfl rfl
  | .mem (.ext _) => of_opcode 0xF6 2 (by decide) rfl rfl rfl
theorem eorB : (m : Src8) → Statement (.eorB m)
  | .imm _ => of_opcode 0xC8 1 (by decide) rfl rfl rfl
  | .mem (.dir _) => of_opcode 0xD8 1 (by decide) rfl rfl rfl
  | .mem (.ind _) => of_opcode 0xE8 1 (by decide) rfl rfl rfl
  | .mem (.ext _) => of_opcode 0xF8 2 (by decide) rfl rfl rfl
theorem adcB : (m : Src8) → Statement (.adcB m)
  | .imm _ => of_opcode 0xC9 1 (by decide) rfl rfl rfl
  | .mem (.dir _) => of_opcode 0xD9 1 (by decide) rfl rfl rfl
  | .mem (.ind _) => of_opcode 0xE9 1 (by decide) rfl rfl rfl
  | .mem (.ext _) => of_opcode 0xF9 2 (by decide) rfl rfl rfl
theorem oraB : (m : Src8) → Statement (.oraB m)
  | .imm _ => of_opcode 0xCA 1 (by decide) rfl rfl rfl
  | .mem (.dir _) => of_opcode 0xDA 1 (by decide) rfl rfl rfl
  | .mem (.ind _) => of_opcode 0xEA 1 (by decide) rfl rfl rfl
  | .mem (.ext _) => of_opcode 0xFA 2 (by decide) rfl rfl rfl
theorem addB : (m : Src8) → Statement (.addB m)
  | .imm _ => of_opcode 0xCB 1 (by decide) rfl rfl rfl
  | .mem (.dir _) => of_opcode 0xDB 1 (by decide) rfl rfl rfl
  | .mem (.ind _) => of_opcode 0xEB 1 (by decide) rfl rfl rfl
  | .mem (.ext _) => of_opcode 0xFB 2 (by decide) rfl rfl rfl
theorem ldx : (m : Src16) → Statement (.ldx m)
  | .imm _ => of_opcode 0xCE 2 (by decide) rfl rfl rfl
  | .mem (.dir _) => of_opcode 0xDE 1 (by decide) rfl rfl rfl
  | .mem (.ind _) => of_opcode 0xEE 1 (by decide) rfl rfl rfl
  | .mem (.ext _) => of_opcode 0xFE 2 (by decide) rfl rfl rfl
theorem staB : (m : Mem) → Statement (.staB m)
  | .dir _ => of_opcode 0xD7 1 (by decide) rfl rfl rfl
  | .ind _ => of_opcode 0xE7 1 (by decide) rfl rfl rfl
  | .ext _ => of_opcode 0xF7 2 (by decide) rfl rfl rfl
theorem stx : (m : Mem) → Statement (.stx m)
  | .dir _ => of_opcode 0xDF 1 (by decide) rfl rfl rfl
  | .ind _ => of_opcode 0xEF 1 (by decide) rfl rfl rfl
  | .ext _ => of_opcode 0xFF 2 (by decide) rfl rfl rfl
theorem unassigned (opcode : Byte) : Statement (.unassigned opcode) := by
  intro h
  have key : ∀ op : Byte, isUnassigned op = true → (opcodeCell op).operandBytes = 0 := by decide
  refine ⟨Nat.le_refl 1, Nat.le_add_left 1 2, ?_⟩
  show 1 = 1 + (opcodeCell opcode).operandBytes
  rw [key opcode h]

end Sys2Proof.Laws.EncodedLength
end

