-- ==== Sys2Proof/Tests/Slice0.lean ====
section
/-! SUPPORT. Tests. The names `T1`, `E1` and so on are those of file 95; the expected words and end
states are copied from there or, where a comment says so, worked by hand from a rule. The last part
has one witness for each statement of Obligations.lean that has hypotheses. -/

namespace Sys2Proof.Machine.Tests

open Sys2Proof Sys2Proof.Machine

/-! ## Helpers -/

/-- A flag register from six digits, in the order of R16. -/
def hinzvc (h i n z v c : Nat) : Ccr := ⟨h == 1, i == 1, n == 1, z == 1, v == 1, c == 1⟩

/-- The start state of the vectors of file 95: PC = 0100, SP = 01FF, I = 1, all else zero. -/
def start : State := { State.reset with pc := 0x0100, sp := 0x01FF }

/-- Memory with some bytes, the others zero. -/
def cells (l : List (Word × Byte)) : Memory := Memory.storeAll { cells := [] } [] l

/-- 64K of RAM with some bytes, the others zero, on a quiet bus. -/
def ram (l : List (Word × Byte)) : Bus := { State.reset.bus with mem := cells l }

/-- Bytes at 0100 and on. -/
def at0100 (s : State) (bytes : List Byte) : State :=
  { s with bus := { s.bus with
      mem := s.mem.storeAll [] (bytes.zipIdx.map fun p => (0x0100 + BitVec.ofNat 16 p.2, p.1)) } }

/-- One step gives a next state with a property. -/
def ends (s : State) (p : State → Bool) : Bool :=
  match step s with
  | .next t => p t
  | _ => false

/-- Every byte sequence of a list decodes to its instruction with nothing left, and a fetch of these bytes
at 0100 reads that instruction. -/
def decodesAll (l : List (List Byte × Instr)) : Bool :=
  l.all fun p =>
    match decode p.1 with
    | .ok (i, rest) =>
      decide (i = p.2) && rest.isEmpty && decide ((at0100 start p.1).fetchInstr.1 = p.2)
    | _ => false

/-! ## Well-formedness: an ill-formed term for the one check -/

/-- 01 is assigned (NOP) and FF is assigned (STX), so neither is an unassigned instruction. -/
theorem test_wf_refuses : (Instr.unassigned 0x01).wf = false ∧ (Instr.unassigned 0xFF).wf = false := by
  decide

/-- 00 and FD are stars of the map of R93. -/
theorem test_wf_admits : (Instr.unassigned 0x00).wf = true ∧ (Instr.unassigned 0xFD).wf = true ∧
    (Instr.addA (.imm 0xFF)).wf = true := by decide

/-! ## Decoding: the 256 opcodes by the opcode table of the spec, operand bytes 12 and 34 -/

theorem test_decode_row0 : decodesAll
    [([0x00], .unassigned 0x00), ([0x01], .nop), ([0x02], .unassigned 0x02),
     ([0x03], .unassigned 0x03), ([0x04], .unassigned 0x04), ([0x05], .unassigned 0x05),
     ([0x06], .tap), ([0x07], .tpa), ([0x08], .inx), ([0x09], .dex), ([0x0A], .clv), ([0x0B], .sev),
     ([0x0C], .clc), ([0x0D], .sec), ([0x0E], .cli), ([0x0F], .sei)] = true := by decide

theorem test_decode_row1 : decodesAll
    [([0x10], .sba), ([0x11], .cba), ([0x12], .unassigned 0x12), ([0x13], .unassigned 0x13),
     ([0x14], .unassigned 0x14), ([0x15], .unassigned 0x15), ([0x16], .tab), ([0x17], .tba),
     ([0x18], .unassigned 0x18), ([0x19], .daa), ([0x1A], .unassigned 0x1A), ([0x1B], .aba),
     ([0x1C], .unassigned 0x1C), ([0x1D], .unassigned 0x1D), ([0x1E], .unassigned 0x1E),
     ([0x1F], .unassigned 0x1F)] = true := by decide

theorem test_decode_row2 : decodesAll
    [([0x20, 0x12], .bra 0x12), ([0x21], .unassigned 0x21), ([0x22, 0x12], .bhi 0x12),
     ([0x23, 0x12], .bls 0x12), ([0x24, 0x12], .bcc 0x12), ([0x25, 0x12], .bcs 0x12),
     ([0x26, 0x12], .bne 0x12), ([0x27, 0x12], .beq 0x12), ([0x28, 0x12], .bvc 0x12),
     ([0x29, 0x12], .bvs 0x12), ([0x2A, 0x12], .bpl 0x12), ([0x2B, 0x12], .bmi 0x12),
     ([0x2C, 0x12], .bge 0x12), ([0x2D, 0x12], .blt 0x12), ([0x2E, 0x12], .bgt 0x12),
     ([0x2F, 0x12], .ble 0x12)] = true := by decide

theorem test_decode_row3 : decodesAll
    [([0x30], .tsx), ([0x31], .ins), ([0x32], .pulA), ([0x33], .pulB), ([0x34], .des), ([0x35], .txs),
     ([0x36], .pshA), ([0x37], .pshB), ([0x38], .unassigned 0x38), ([0x39], .rts),
     ([0x3A], .unassigned 0x3A), ([0x3B], .rti), ([0x3C], .unassigned 0x3C),
     ([0x3D], .unassigned 0x3D), ([0x3E], .wai), ([0x3F], .swi)] = true := by decide

theorem test_decode_row4 : decodesAll
    [([0x40], .negA), ([0x41], .unassigned 0x41), ([0x42], .unassigned 0x42), ([0x43], .comA),
     ([0x44], .lsrA), ([0x45], .unassigned 0x45), ([0x46], .rorA), ([0x47], .asrA), ([0x48], .aslA),
     ([0x49], .rolA), ([0x4A], .decA), ([0x4B], .unassigned 0x4B), ([0x4C], .incA), ([0x4D], .tstA),
     ([0x4E], .unassigned 0x4E), ([0x4F], .clrA)] = true := by decide

theorem test_decode_row5 : decodesAll
    [([0x50], .negB), ([0x51], .unassigned 0x51), ([0x52], .unassigned 0x52), ([0x53], .comB),
     ([0x54], .lsrB), ([0x55], .unassigned 0x55), ([0x56], .rorB), ([0x57], .asrB), ([0x58], .aslB),
     ([0x59], .rolB), ([0x5A], .decB), ([0x5B], .unassigned 0x5B), ([0x5C], .incB), ([0x5D], .tstB),
     ([0x5E], .unassigned 0x5E), ([0x5F], .clrB)] = true := by decide

theorem test_decode_row6 : decodesAll
    [([0x60, 0x12], .neg (.ind 0x12)), ([0x61], .unassigned 0x61), ([0x62], .unassigned 0x62),
     ([0x63, 0x12], .com (.ind 0x12)), ([0x64, 0x12], .lsr (.ind 0x12)), ([0x65], .unassigned 0x65),
     ([0x66, 0x12], .ror (.ind 0x12)), ([0x67, 0x12], .asr (.ind 0x12)),
     ([0x68, 0x12], .asl (.ind 0x12)), ([0x69, 0x12], .rol (.ind 0x12)),
     ([0x6A, 0x12], .dec (.ind 0x12)), ([0x6B], .unassigned 0x6B), ([0x6C, 0x12], .inc (.ind 0x12)),
     ([0x6D, 0x12], .tst (.ind 0x12)), ([0x6E, 0x12], .jmp (.ind 0x12)),
     ([0x6F, 0x12], .clr (.ind 0x12))] = true := by decide

theorem test_decode_row7 : decodesAll
    [([0x70, 0x12, 0x34], .neg (.ext 0x1234)), ([0x71], .unassigned 0x71), ([0x72], .unassigned 0x72),
     ([0x73, 0x12, 0x34], .com (.ext 0x1234)), ([0x74, 0x12, 0x34], .lsr (.ext 0x1234)),
     ([0x75], .unassigned 0x75), ([0x76, 0x12, 0x34], .ror (.ext 0x1234)),
     ([0x77, 0x12, 0x34], .asr (.ext 0x1234)), ([0x78, 0x12, 0x34], .asl (.ext 0x1234)),
     ([0x79, 0x12, 0x34], .rol (.ext 0x1234)), ([0x7A, 0x12, 0x34], .dec (.ext 0x1234)),
     ([0x7B], .unassigned 0x7B), ([0x7C, 0x12, 0x34], .inc (.ext 0x1234)),
     ([0x7D, 0x12, 0x34], .tst (.ext 0x1234)), ([0x7E, 0x12, 0x34], .jmp (.ext 0x1234)),
     ([0x7F, 0x12, 0x34], .clr (.ext 0x1234))] = true := by decide

theorem test_decode_row8 : decodesAll
    [([0x80, 0x12], .subA (.imm 0x12)), ([0x81, 0x12], .cmpA (.imm 0x12)),
     ([0x82, 0x12], .sbcA (.imm 0x12)), ([0x83], .unassigned 0x83), ([0x84, 0x12], .andA (.imm 0x12)),
     ([0x85, 0x12], .bitA (.imm 0x12)), ([0x86, 0x12], .ldaA (.imm 0x12)), ([0x87], .unassigned 0x87),
     ([0x88, 0x12], .eorA (.imm 0x12)), ([0x89, 0x12], .adcA (.imm 0x12)),
     ([0x8A, 0x12], .oraA (.imm 0x12)), ([0x8B, 0x12], .addA (.imm 0x12)),
     ([0x8C, 0x12, 0x34], .cpx (.imm 0x1234)), ([0x8D, 0x12], .bsr 0x12),
     ([0x8E, 0x12, 0x34], .lds (.imm 0x1234)), ([0x8F], .unassigned 0x8F)] = true := by decide

theorem test_decode_row9 : decodesAll
    [([0x90, 0x12], .subA (.mem (.dir 0x12))), ([0x91, 0x12], .cmpA (.mem (.dir 0x12))),
     ([0x92, 0x12], .sbcA (.mem (.dir 0x12))), ([0x93], .unassigned 0x93),
     ([0x94, 0x12], .andA (.mem (.dir 0x12))), ([0x95, 0x12], .bitA (.mem (.dir 0x12))),
     ([0x96, 0x12], .ldaA (.mem (.dir 0x12))), ([0x97, 0x12], .staA (.dir 0x12)),
     ([0x98, 0x12], .eorA (.mem (.dir 0x12))), ([0x99, 0x12], .adcA (.mem (.dir 0x12))),
     ([0x9A, 0x12], .oraA (.mem (.dir 0x12))), ([0x9B, 0x12], .addA (.mem (.dir 0x12))),
     ([0x9C, 0x12], .cpx (.mem (.dir 0x12))), ([0x9D], .unassigned 0x9D),
     ([0x9E, 0x12], .lds (.mem (.dir 0x12))), ([0x9F, 0x12], .sts (.dir 0x12))] = true := by decide

theorem test_decode_rowA : decodesAll
    [([0xA0, 0x12], .subA (.mem (.ind 0x12))), ([0xA1, 0x12], .cmpA (.mem (.ind 0x12))),
     ([0xA2, 0x12], .sbcA (.mem (.ind 0x12))), ([0xA3], .unassigned 0xA3),
     ([0xA4, 0x12], .andA (.mem (.ind 0x12))), ([0xA5, 0x12], .bitA (.mem (.ind 0x12))),
     ([0xA6, 0x12], .ldaA (.mem (.ind 0x12))), ([0xA7, 0x12], .staA (.ind 0x12)),
     ([0xA8, 0x12], .eorA (.mem (.ind 0x12))), ([0xA9, 0x12], .adcA (.mem (.ind 0x12))),
     ([0xAA, 0x12], .oraA (.mem (.ind 0x12))), ([0xAB, 0x12], .addA (.mem (.ind 0x12))),
     ([0xAC, 0x12], .cpx (.mem (.ind 0x12))), ([0xAD, 0x12], .jsr (.ind 0x12)),
     ([0xAE, 0x12], .lds (.mem (.ind 0x12))), ([0xAF, 0x12], .sts (.ind 0x12))] = true := by decide

theorem test_decode_rowB : decodesAll
    [([0xB0, 0x12, 0x34], .subA (.mem (.ext 0x1234))),
     ([0xB1, 0x12, 0x34], .cmpA (.mem (.ext 0x1234))),
     ([0xB2, 0x12, 0x34], .sbcA (.mem (.ext 0x1234))), ([0xB3], .unassigned 0xB3),
     ([0xB4, 0x12, 0x34], .andA (.mem (.ext 0x1234))),
     ([0xB5, 0x12, 0x34], .bitA (.mem (.ext 0x1234))),
     ([0xB6, 0x12, 0x34], .ldaA (.mem (.ext 0x1234))), ([0xB7, 0x12, 0x34], .staA (.ext 0x1234)),
     ([0xB8, 0x12, 0x34], .eorA (.mem (.ext 0x1234))),
     ([0xB9, 0x12, 0x34], .adcA (.mem (.ext 0x1234))),
     ([0xBA, 0x12, 0x34], .oraA (.mem (.ext 0x1234))),
     ([0xBB, 0x12, 0x34], .addA (.mem (.ext 0x1234))), ([0xBC, 0x12, 0x34], .cpx (.mem (.ext 0x1234))),
     ([0xBD, 0x12, 0x34], .jsr (.ext 0x1234)), ([0xBE, 0x12, 0x34], .lds (.mem (.ext 0x1234))),
     ([0xBF, 0x12, 0x34], .sts (.ext 0x1234))] = true := by decide

theorem test_decode_rowC : decodesAll
    [([0xC0, 0x12], .subB (.imm 0x12)), ([0xC1, 0x12], .cmpB (.imm 0x12)),
     ([0xC2, 0x12], .sbcB (.imm 0x12)), ([0xC3], .unassigned 0xC3), ([0xC4, 0x12], .andB (.imm 0x12)),
     ([0xC5, 0x12], .bitB (.imm 0x12)), ([0xC6, 0x12], .ldaB (.imm 0x12)), ([0xC7], .unassigned 0xC7),
     ([0xC8, 0x12], .eorB (.imm 0x12)), ([0xC9, 0x12], .adcB (.imm 0x12)),
     ([0xCA, 0x12], .oraB (.imm 0x12)), ([0xCB, 0x12], .addB (.imm 0x12)), ([0xCC], .unassigned 0xCC),
     ([0xCD], .unassigned 0xCD), ([0xCE, 0x12, 0x34], .ldx (.imm 0x1234)),
     ([0xCF], .unassigned 0xCF)] = true := by decide

theorem test_decode_rowD : decodesAll
    [([0xD0, 0x12], .subB (.mem (.dir 0x12))), ([0xD1, 0x12], .cmpB (.mem (.dir 0x12))),
     ([0xD2, 0x12], .sbcB (.mem (.dir 0x12))), ([0xD3], .unassigned 0xD3),
     ([0xD4, 0x12], .andB (.mem (.dir 0x12))), ([0xD5, 0x12], .bitB (.mem (.dir 0x12))),
     ([0xD6, 0x12], .ldaB (.mem (.dir 0x12))), ([0xD7, 0x12], .staB (.dir 0x12)),
     ([0xD8, 0x12], .eorB (.mem (.dir 0x12))), ([0xD9, 0x12], .adcB (.mem (.dir 0x12))),
     ([0xDA, 0x12], .oraB (.mem (.dir 0x12))), ([0xDB, 0x12], .addB (.mem (.dir 0x12))),
     ([0xDC], .unassigned 0xDC), ([0xDD], .unassigned 0xDD), ([0xDE, 0x12], .ldx (.mem (.dir 0x12))),
     ([0xDF, 0x12], .stx (.dir 0x12))] = true := by decide

theorem test_decode_rowE : decodesAll
    [([0xE0, 0x12], .subB (.mem (.ind 0x12))), ([0xE1, 0x12], .cmpB (.mem (.ind 0x12))),
     ([0xE2, 0x12], .sbcB (.mem (.ind 0x12))), ([0xE3], .unassigned 0xE3),
     ([0xE4, 0x12], .andB (.mem (.ind 0x12))), ([0xE5, 0x12], .bitB (.mem (.ind 0x12))),
     ([0xE6, 0x12], .ldaB (.mem (.ind 0x12))), ([0xE7, 0x12], .staB (.ind 0x12)),
     ([0xE8, 0x12], .eorB (.mem (.ind 0x12))), ([0xE9, 0x12], .adcB (.mem (.ind 0x12))),
     ([0xEA, 0x12], .oraB (.mem (.ind 0x12))), ([0xEB, 0x12], .addB (.mem (.ind 0x12))),
     ([0xEC], .unassigned 0xEC), ([0xED], .unassigned 0xED), ([0xEE, 0x12], .ldx (.mem (.ind 0x12))),
     ([0xEF, 0x12], .stx (.ind 0x12))] = true := by decide

theorem test_decode_rowF : decodesAll
    [([0xF0, 0x12, 0x34], .subB (.mem (.ext 0x1234))),
     ([0xF1, 0x12, 0x34], .cmpB (.mem (.ext 0x1234))),
     ([0xF2, 0x12, 0x34], .sbcB (.mem (.ext 0x1234))), ([0xF3], .unassigned 0xF3),
     ([0xF4, 0x12, 0x34], .andB (.mem (.ext 0x1234))),
     ([0xF5, 0x12, 0x34], .bitB (.mem (.ext 0x1234))),
     ([0xF6, 0x12, 0x34], .ldaB (.mem (.ext 0x1234))), ([0xF7, 0x12, 0x34], .staB (.ext 0x1234)),
     ([0xF8, 0x12, 0x34], .eorB (.mem (.ext 0x1234))),
     ([0xF9, 0x12, 0x34], .adcB (.mem (.ext 0x1234))),
     ([0xFA, 0x12, 0x34], .oraB (.mem (.ext 0x1234))),
     ([0xFB, 0x12, 0x34], .addB (.mem (.ext 0x1234))), ([0xFC], .unassigned 0xFC),
     ([0xFD], .unassigned 0xFD), ([0xFE, 0x12, 0x34], .ldx (.mem (.ext 0x1234))),
     ([0xFF, 0x12, 0x34], .stx (.ext 0x1234))] = true := by decide

/-- No bytes, and too few operand bytes. -/
theorem test_decode_short :
    (match decode [] with | .ok _ => false | .error _ => true) = true ∧
    (match decode [0xBD, 0x12] with | .ok _ => false | .error _ => true) = true := by decide

/-- Bit 0 of a table word is in the first byte; operand bytes above `nbits` are 0. -/
theorem test_decodeTableWord : decodeTableWord 24 0x3412BD = some (.jsr (.ext 0x1234)) ∧
    decodeTableWord 8 0x8B = some (.addA (.imm 0x00)) ∧
    decodeTableWord 8 0x41 = some (.unassigned 0x41) := by decide

/-- A table word placed after reset runs as the first instruction: LDX immediate 1234. -/
theorem test_withFetchWord :
    ends (State.reset.withFetchWord 24 0x3412CE) (fun t => t.x == 0x1234 && t.pc == 0x0003) = true := by
  decide

/-! ## One instruction each -/

/-! ### Arithmetic (file 40) -/

theorem test_T1_addA : ends (at0100 { start with a := 0x3A } [0x8B, 0x46])
    (fun t => t.a == 0x80 && t.pc == 0x0102 && t.ccr == hinzvc 1 1 1 0 1 0) = true := by decide

theorem test_T5_addB :
    ends (at0100 { start with b := 0x0F, bus := ram [(0x0020, 0x01)] } [0xDB, 0x20])
    (fun t => t.b == 0x10 && t.pc == 0x0102 && t.ccr == hinzvc 1 1 0 0 0 0) = true := by decide

theorem test_T8_adcA : ends (at0100 { start with a := 0x0F, ccr := hinzvc 0 1 0 0 0 1 } [0x89, 0x00])
    (fun t => t.a == 0x10 && t.ccr == hinzvc 1 1 0 0 0 0) = true := by decide

theorem test_T10_adcB : ends (at0100 { start with b := 0x7F, ccr := hinzvc 0 1 0 0 0 1 } [0xC9, 0x00])
    (fun t => t.b == 0x80 && t.ccr == hinzvc 1 1 1 0 1 0) = true := by decide

theorem test_T11_aba : ends (at0100 { start with a := 0x48, b := 0x39 } [0x1B])
    (fun t => t.a == 0x81 && t.b == 0x39 && t.pc == 0x0101 &&
      t.ccr == hinzvc 1 1 1 0 1 0) = true := by decide

theorem test_T13_subA : ends (at0100 { start with a := 0x20 } [0x80, 0x50])
    (fun t => t.a == 0xD0 && t.ccr == hinzvc 0 1 1 0 0 1) = true := by decide

theorem test_T15_subB : ends (at0100 { start with b := 0x42 } [0xC0, 0x42])
    (fun t => t.b == 0x00 && t.ccr == hinzvc 0 1 0 1 0 0) = true := by decide

theorem test_T18_sbcA : ends (at0100 { start with a := 0x00, ccr := hinzvc 0 1 0 0 0 1 } [0x82, 0x00])
    (fun t => t.a == 0xFF && t.ccr == hinzvc 0 1 1 0 0 1) = true := by decide

theorem test_T19_sbcB : ends (at0100 { start with b := 0x80, ccr := hinzvc 0 1 0 0 0 1 } [0xC2, 0x00])
    (fun t => t.b == 0x7F && t.ccr == hinzvc 0 1 0 0 1 0) = true := by decide

theorem test_T20_sba : ends (at0100 { start with a := 0x05, b := 0x06 } [0x10])
    (fun t => t.a == 0xFF && t.b == 0x06 && t.ccr == hinzvc 0 1 1 0 0 1) = true := by decide

theorem test_T22_cmpA : ends (at0100 { start with a := 0x10 } [0x81, 0x20])
    (fun t => t.a == 0x10 && t.ccr == hinzvc 0 1 1 0 0 1) = true := by decide

theorem test_T23_cmpB : ends (at0100 { start with b := 0x7F } [0xC1, 0x80])
    (fun t => t.b == 0x7F && t.ccr == hinzvc 0 1 1 0 1 1) = true := by decide

theorem test_T24_cba : ends (at0100 { start with a := 0x80, b := 0x7F } [0x11])
    (fun t => t.a == 0x80 && t.b == 0x7F && t.ccr == hinzvc 0 1 0 0 1 0) = true := by decide

theorem test_T25_negA : ends (at0100 { start with a := 0x01 } [0x40])
    (fun t => t.a == 0xFF && t.ccr == hinzvc 0 1 1 0 0 1) = true := by decide

theorem test_T27_negB : ends (at0100 { start with b := 0x80 } [0x50])
    (fun t => t.b == 0x80 && t.ccr == hinzvc 0 1 1 0 1 1) = true := by decide

theorem test_T28_neg : ends (at0100 { start with bus := ram [(0x0200, 0x7F)] } [0x70, 0x02, 0x00])
    (fun t => t.mem.read 0x0200 == 0x81 && t.pc == 0x0103 &&
      t.ccr == hinzvc 0 1 1 0 0 1) = true := by decide

theorem test_T29_incA : ends (at0100 { start with a := 0x7F, ccr := hinzvc 0 1 0 0 0 1 } [0x4C])
    (fun t => t.a == 0x80 && t.ccr == hinzvc 0 1 1 0 1 1) = true := by decide

theorem test_T30_incB : ends (at0100 { start with b := 0xFF } [0x5C])
    (fun t => t.b == 0x00 && t.ccr == hinzvc 0 1 0 1 0 0) = true := by decide

theorem test_T31_inc :
    ends (at0100 { start with x := 0x0300, bus := ram [(0x0305, 0x0F)] } [0x6C, 0x05])
    (fun t => t.mem.read 0x0305 == 0x10 && t.pc == 0x0102 &&
      t.ccr == hinzvc 0 1 0 0 0 0) = true := by decide

theorem test_T32_decA : ends (at0100 { start with a := 0x80 } [0x4A])
    (fun t => t.a == 0x7F && t.ccr == hinzvc 0 1 0 0 1 0) = true := by decide

theorem test_T34_decB : ends (at0100 { start with b := 0x00 } [0x5A])
    (fun t => t.b == 0xFF && t.ccr == hinzvc 0 1 1 0 0 0) = true := by decide

theorem test_T35_dec : ends (at0100 { start with bus := ram [(0x0200, 0x01)] } [0x7A, 0x02, 0x00])
    (fun t => t.mem.read 0x0200 == 0x00 && t.ccr == hinzvc 0 1 0 1 0 0) = true := by decide

theorem test_T36_daa : ends (at0100 { start with a := 0x7D } [0x19])
    (fun t => t.a == 0x83 && { t.ccr with v := false } == hinzvc 0 1 1 0 0 0) = true := by decide

theorem test_T41_daa : ends (at0100 { start with a := 0x32, ccr := hinzvc 1 1 0 0 0 1 } [0x19])
    (fun t => t.a == 0x98 && { t.ccr with v := false } == hinzvc 1 1 1 0 0 1) = true := by decide

/-! ### Logic and shifts (file 41) -/

theorem test_T42_andA : ends (at0100 { start with a := 0xF0, ccr := hinzvc 0 1 0 0 1 1 } [0x84, 0x3C])
    (fun t => t.a == 0x30 && t.ccr == hinzvc 0 1 0 0 0 1) = true := by decide

theorem test_T43_andB : ends (at0100 { start with b := 0x55 } [0xC4, 0xAA])
    (fun t => t.b == 0x00 && t.ccr == hinzvc 0 1 0 1 0 0) = true := by decide

theorem test_T44_bitA : ends (at0100 { start with a := 0x80 } [0x85, 0x80])
    (fun t => t.a == 0x80 && t.ccr == hinzvc 0 1 1 0 0 0) = true := by decide

theorem test_T45_bitB :
    ends (at0100 { start with b := 0x0F, ccr := hinzvc 0 1 0 0 1 0,
                              bus := ram [(0x0010, 0xF0)] } [0xD5, 0x10])
    (fun t => t.b == 0x0F && t.ccr == hinzvc 0 1 0 1 0 0) = true := by decide

theorem test_T46_eorA : ends (at0100 { start with a := 0x5A } [0x88, 0x5A])
    (fun t => t.a == 0x00 && t.ccr == hinzvc 0 1 0 1 0 0) = true := by decide

theorem test_T47_eorB : ends (at0100 { start with b := 0x0F, ccr := hinzvc 0 1 0 0 0 1 } [0xC8, 0xFF])
    (fun t => t.b == 0xF0 && t.ccr == hinzvc 0 1 1 0 0 1) = true := by decide

theorem test_T48_oraA : ends (at0100 { start with a := 0x01 } [0x8A, 0x80])
    (fun t => t.a == 0x81 && t.ccr == hinzvc 0 1 1 0 0 0) = true := by decide

theorem test_T49_oraB : ends (at0100 { start with b := 0x00, ccr := hinzvc 0 1 0 0 1 0 } [0xCA, 0x00])
    (fun t => t.b == 0x00 && t.ccr == hinzvc 0 1 0 1 0 0) = true := by decide

theorem test_T50_comA : ends (at0100 { start with a := 0x00 } [0x43])
    (fun t => t.a == 0xFF && t.ccr == hinzvc 0 1 1 0 0 1) = true := by decide

theorem test_T51_comB : ends (at0100 { start with b := 0xFF, ccr := hinzvc 0 1 0 0 1 0 } [0x53])
    (fun t => t.b == 0x00 && t.ccr == hinzvc 0 1 0 1 0 1) = true := by decide

theorem test_T52_com : ends (at0100 { start with bus := ram [(0x0200, 0xA5)] } [0x73, 0x02, 0x00])
    (fun t => t.mem.read 0x0200 == 0x5A && t.ccr == hinzvc 0 1 0 0 0 1) = true := by decide

theorem test_T53_clrA : ends (at0100 { start with a := 0x99, ccr := hinzvc 1 1 1 0 1 1 } [0x4F])
    (fun t => t.a == 0x00 && t.ccr == hinzvc 1 1 0 1 0 0) = true := by decide

theorem test_T54_clr :
    ends (at0100 { start with x := 0x0200, bus := ram [(0x0200, 0x77)] } [0x6F, 0x00])
    (fun t => t.mem.read 0x0200 == 0x00 && t.ccr == hinzvc 0 1 0 1 0 0) = true := by decide

theorem test_T55_tstA : ends (at0100 { start with a := 0x80, ccr := hinzvc 0 1 0 0 1 1 } [0x4D])
    (fun t => t.a == 0x80 && t.ccr == hinzvc 0 1 1 0 0 0) = true := by decide

theorem test_T56_tstB : ends (at0100 { start with b := 0x00, ccr := hinzvc 0 1 0 0 0 1 } [0x5D])
    (fun t => t.b == 0x00 && t.ccr == hinzvc 0 1 0 1 0 0) = true := by decide

theorem test_T57_tst : ends (at0100 { start with bus := ram [(0x0200, 0x01)] } [0x7D, 0x02, 0x00])
    (fun t => t.ccr == hinzvc 0 1 0 0 0 0) = true := by decide

theorem test_T59_rolA : ends (at0100 { start with a := 0x40, ccr := hinzvc 0 1 0 0 0 1 } [0x49])
    (fun t => t.a == 0x81 && t.ccr == hinzvc 0 1 1 0 1 0) = true := by decide

theorem test_T60_rolB : ends (at0100 { start with b := 0x00, ccr := hinzvc 0 1 0 0 0 1 } [0x59])
    (fun t => t.b == 0x01 && t.ccr == hinzvc 0 1 0 0 0 0) = true := by decide

theorem test_T62_rorA : ends (at0100 { start with a := 0x00, ccr := hinzvc 0 1 0 0 0 1 } [0x46])
    (fun t => t.a == 0x80 && t.ccr == hinzvc 0 1 1 0 1 0) = true := by decide

theorem test_T63_rorB : ends (at0100 { start with b := 0x03, ccr := hinzvc 0 1 0 0 0 1 } [0x56])
    (fun t => t.b == 0x81 && t.ccr == hinzvc 0 1 1 0 0 1) = true := by decide

theorem test_T65_aslA : ends (at0100 { start with a := 0x80 } [0x48])
    (fun t => t.a == 0x00 && t.ccr == hinzvc 0 1 0 1 1 1) = true := by decide

theorem test_T66_aslB : ends (at0100 { start with b := 0xC1 } [0x58])
    (fun t => t.b == 0x82 && t.ccr == hinzvc 0 1 1 0 0 1) = true := by decide

theorem test_T67_asl : ends (at0100 { start with bus := ram [(0x0200, 0x55)] } [0x78, 0x02, 0x00])
    (fun t => t.mem.read 0x0200 == 0xAA && t.ccr == hinzvc 0 1 1 0 1 0) = true := by decide

theorem test_T68_asrA : ends (at0100 { start with a := 0x81 } [0x47])
    (fun t => t.a == 0xC0 && t.ccr == hinzvc 0 1 1 0 0 1) = true := by decide

theorem test_T70_asrB : ends (at0100 { start with b := 0x7E, ccr := hinzvc 0 1 0 0 0 1 } [0x57])
    (fun t => t.b == 0x3F && t.ccr == hinzvc 0 1 0 0 0 0) = true := by decide

theorem test_T71_lsrA : ends (at0100 { start with a := 0x81, ccr := hinzvc 0 1 1 0 0 0 } [0x44])
    (fun t => t.a == 0x40 && t.ccr == hinzvc 0 1 0 0 1 1) = true := by decide

theorem test_T73_lsr :
    ends (at0100 { start with x := 0x0200, bus := ram [(0x0210, 0xFE)] } [0x64, 0x10])
    (fun t => t.mem.read 0x0210 == 0x7F && t.ccr == hinzvc 0 1 0 0 0 0) = true := by decide

/-- Worked by hand from the rule of the instruction. -/
theorem test_clrB : ends (at0100 { start with b := 0x99, ccr := hinzvc 1 1 1 0 1 1 } [0x5F])
    (fun t => t.b == 0x00 && t.ccr == hinzvc 1 1 0 1 0 0) = true := by decide

/-- Worked by hand from the rule of the instruction. -/
theorem test_lsrB : ends (at0100 { start with b := 0x81, ccr := hinzvc 0 1 1 0 0 0 } [0x54])
    (fun t => t.b == 0x40 && t.ccr == hinzvc 0 1 0 0 1 1) = true := by decide

/-- Worked by hand from the rule of the instruction. -/
theorem test_rol :
    ends (at0100 { start with x := 0x0200, ccr := hinzvc 0 1 0 0 0 1,
                              bus := ram [(0x0203, 0x40)] } [0x69, 0x03])
    (fun t => t.mem.read 0x0203 == 0x81 && t.ccr == hinzvc 0 1 1 0 1 0) = true := by decide

/-- Worked by hand from the rule of the instruction. -/
theorem test_ror :
    ends (at0100 { start with ccr := hinzvc 0 1 0 0 0 1,
                              bus := ram [(0x0200, 0x03)] } [0x76, 0x02, 0x00])
    (fun t => t.mem.read 0x0200 == 0x81 && t.ccr == hinzvc 0 1 1 0 0 1) = true := by decide

/-- Worked by hand from the rule of the instruction. -/
theorem test_asr : ends (at0100 { start with bus := ram [(0x0200, 0x81)] } [0x77, 0x02, 0x00])
    (fun t => t.mem.read 0x0200 == 0xC0 && t.ccr == hinzvc 0 1 1 0 0 1) = true := by decide

/-! ### Load, store, transfer, stack (file 42) -/

theorem test_T74_ldaA : ends (at0100 { start with ccr := hinzvc 0 1 0 0 1 1 } [0x86, 0x80])
    (fun t => t.a == 0x80 && t.pc == 0x0102 && t.ccr == hinzvc 0 1 1 0 0 1) = true := by decide

theorem test_T79_ldaA :
    ends (at0100 { start with x := 0xFFFF, bus := ram [(0x0001, 0x5A)] } [0xA6, 0x02])
    (fun t => t.a == 0x5A && t.ccr == hinzvc 0 1 0 0 0 0) = true := by decide

theorem test_T77_ldaB : ends (at0100 { start with bus := ram [(0x012C, 0x7F)] } [0xF6, 0x01, 0x2C])
    (fun t => t.b == 0x7F && t.pc == 0x0103 && t.ccr == hinzvc 0 1 0 0 0 0) = true := by decide

theorem test_T80_staA : ends (at0100 { start with a := 0x80, ccr := hinzvc 0 1 0 0 1 1 } [0x97, 0x40])
    (fun t => t.mem.read 0x0040 == 0x80 && t.pc == 0x0102 &&
      t.ccr == hinzvc 0 1 1 0 0 1) = true := by decide

theorem test_T81_staB :
    ends (at0100 { start with b := 0x00, ccr := hinzvc 0 1 1 0 0 0,
                              bus := ram [(0x0200, 0xFF)] } [0xF7, 0x02, 0x00])
    (fun t => t.mem.read 0x0200 == 0x00 && t.pc == 0x0103 &&
      t.ccr == hinzvc 0 1 0 1 0 0) = true := by decide

theorem test_T83_tab :
    ends (at0100 { start with a := 0x80, b := 0x01, ccr := hinzvc 0 1 0 0 1 1 } [0x16])
    (fun t => t.a == 0x80 && t.b == 0x80 && t.ccr == hinzvc 0 1 1 0 0 1) = true := by decide

theorem test_T84_tba :
    ends (at0100 { start with a := 0x55, b := 0x00, ccr := hinzvc 0 1 1 0 0 0 } [0x17])
    (fun t => t.a == 0x00 && t.b == 0x00 && t.ccr == hinzvc 0 1 0 1 0 0) = true := by decide

theorem test_T85_pshA : ends (at0100 { start with a := 0xF3, ccr := hinzvc 0 1 1 0 0 1 } [0x36])
    (fun t => t.sp == 0x01FE && t.mem.read 0x01FF == 0xF3 && t.pc == 0x0101 &&
      t.ccr == hinzvc 0 1 1 0 0 1) = true := by decide

theorem test_T86_pshB : ends (at0100 { start with b := 0x9C, sp := 0x0000 } [0x37])
    (fun t => t.sp == 0xFFFF && t.mem.read 0x0000 == 0x9C) = true := by decide

theorem test_T87_pulA :
    ends (at0100 { start with sp := 0x01FC, ccr := hinzvc 0 1 0 1 0 0,
                              bus := ram [(0x01FD, 0x1A)] } [0x32])
    (fun t => t.a == 0x1A && t.sp == 0x01FD && t.ccr == hinzvc 0 1 0 1 0 0) = true := by decide

theorem test_T88_pulB : ends (at0100 { start with sp := 0xFFFF, bus := ram [(0x0000, 0x77)] } [0x33])
    (fun t => t.b == 0x77 && t.sp == 0x0000) = true := by decide

/-! ### Index register and stack pointer (file 43) -/

theorem test_T90_cpx :
    ends (at0100 { start with x := 0x1234, ccr := hinzvc 0 1 0 0 0 1 } [0x8C, 0x12, 0x34])
    (fun t => t.x == 0x1234 && t.pc == 0x0103 && t.ccr == hinzvc 0 1 0 1 0 1) = true := by decide

theorem test_T92_cpx : ends (at0100 { start with x := 0x8000 } [0x8C, 0x01, 0x00])
    (fun t => t.ccr == hinzvc 0 1 0 0 1 0) = true := by decide

theorem test_T96_inx : ends (at0100 { start with x := 0xFFFF, ccr := hinzvc 0 1 1 0 0 1 } [0x08])
    (fun t => t.x == 0x0000 && t.ccr == hinzvc 0 1 1 1 0 1) = true := by decide

theorem test_T99_dex : ends (at0100 { start with x := 0x0000, ccr := hinzvc 0 1 0 1 0 0 } [0x09])
    (fun t => t.x == 0xFFFF && t.ccr == hinzvc 0 1 0 0 0 0) = true := by decide

theorem test_T100_ins : ends (at0100 { start with sp := 0xFFFF } [0x31])
    (fun t => t.sp == 0x0000 && t.ccr == hinzvc 0 1 0 0 0 0) = true := by decide

theorem test_T101_des : ends (at0100 { start with sp := 0x0000 } [0x34])
    (fun t => t.sp == 0xFFFF && t.ccr == hinzvc 0 1 0 0 0 0) = true := by decide

theorem test_T105_ldx :
    ends (at0100 { start with x := 0x0200, bus := ram [(0x0202, 0xAB), (0x0203, 0xCD)] } [0xEE, 0x02])
    (fun t => t.x == 0xABCD && t.ccr == hinzvc 0 1 1 0 0 0) = true := by decide

theorem test_T106_ldx :
    ends (at0100 { start with bus := ram [(0xFFFF, 0x12), (0x0000, 0x34)] } [0xFE, 0xFF, 0xFF])
    (fun t => t.x == 0x1234 && t.ccr == hinzvc 0 1 0 0 0 0) = true := by decide

theorem test_T107_lds : ends (at0100 start [0x8E, 0x01, 0xFF])
    (fun t => t.sp == 0x01FF && t.pc == 0x0103 && t.ccr == hinzvc 0 1 0 0 0 0) = true := by decide

theorem test_T108_lds :
    ends (at0100 { start with bus := ram [(0x0200, 0x00), (0x0201, 0x00)] } [0xBE, 0x02, 0x00])
    (fun t => t.sp == 0x0000 && t.ccr == hinzvc 0 1 0 1 0 0) = true := by decide

theorem test_T109_stx : ends (at0100 { start with x := 0x8001, ccr := hinzvc 0 1 0 0 1 0 } [0xDF, 0x20])
    (fun t => t.mem.read 0x0020 == 0x80 && t.mem.read 0x0021 == 0x01 && t.pc == 0x0102 &&
      t.ccr == hinzvc 0 1 1 0 0 0) = true := by decide

theorem test_T113_sts : ends (at0100 { start with sp := 0xA000 } [0xBF, 0x02, 0x10])
    (fun t => t.mem.read 0x0210 == 0xA0 && t.mem.read 0x0211 == 0x00 &&
      t.ccr == hinzvc 0 1 1 0 0 0) = true := by decide

theorem test_T115_txs : ends (at0100 { start with x := 0x0000 } [0x35])
    (fun t => t.sp == 0xFFFF) = true := by decide

theorem test_T117_tsx : ends (at0100 { start with sp := 0xFFFF, x := 0x1234 } [0x30])
    (fun t => t.x == 0x0000) = true := by decide

/-! ### Jumps, subroutines, interrupts by program (file 44) -/

theorem test_T174_bsr : ends (at0100 start [0x8D, 0xF0])
    (fun t => t.pc == 0x00F2 && t.sp == 0x01FD && t.mem.read 0x01FF == 0x02 &&
      t.mem.read 0x01FE == 0x01) = true := by decide

theorem test_T175_jmp : ends (at0100 start [0x7E, 0x12, 0x34])
    (fun t => t.pc == 0x1234) = true := by decide

theorem test_T177_jmp : ends (at0100 { start with x := 0xFFFF } [0x6E, 0x01])
    (fun t => t.pc == 0x0000) = true := by decide

theorem test_T178_jsr : ends (at0100 start [0xBD, 0x20, 0x00])
    (fun t => t.pc == 0x2000 && t.sp == 0x01FD && t.mem.read 0x01FF == 0x03 &&
      t.mem.read 0x01FE == 0x01) = true := by decide

theorem test_T179_jsr : ends (at0100 { start with x := 0x2000 } [0xAD, 0x10])
    (fun t => t.pc == 0x2010 && t.sp == 0x01FD && t.mem.read 0x01FF == 0x02 &&
      t.mem.read 0x01FE == 0x01) = true := by decide

theorem test_T180_nop : ends (at0100 { start with ccr := hinzvc 1 1 1 1 1 1 } [0x01])
    (fun t => t.pc == 0x0101 && t.ccr == hinzvc 1 1 1 1 1 1) = true := by decide

theorem test_T181_rts :
    ends (at0100 { start with sp := 0x01FD, bus := ram [(0x01FE, 0x01), (0x01FF, 0x03)] } [0x39])
    (fun t => t.pc == 0x0103 && t.sp == 0x01FF) = true := by decide

theorem test_T183_rti :
    ends (at0100 { start with sp := 0x01F8,
                              bus := ram [(0x01F9, 0xC1), (0x01FA, 0x22), (0x01FB, 0x11),
          (0x01FC, 0x33), (0x01FD, 0x44), (0x01FE, 0x05), (0x01FF, 0x06)] } [0x3B])
    (fun t => t.pc == 0x0506 && t.sp == 0x01FF && t.a == 0x11 && t.b == 0x22 && t.x == 0x3344 &&
      t.ccr == hinzvc 0 0 0 0 0 1) = true := by decide

theorem test_T185_swi :
    ends (at0100 { start with a := 0x11, b := 0x22, x := 0x3344, ccr := hinzvc 0 0 0 1 0 1,
                              bus := ram [(0xFFFA, 0xE0), (0xFFFB, 0x10)] } [0x3F])
    (fun t => t.pc == 0xE010 && t.sp == 0x01F8 && t.mem.read 0x01FF == 0x01 &&
      t.mem.read 0x01FE == 0x01 && t.mem.read 0x01FD == 0x44 && t.mem.read 0x01FC == 0x33 &&
      t.mem.read 0x01FB == 0x11 && t.mem.read 0x01FA == 0x22 && t.mem.read 0x01F9 == 0xC5 &&
      t.ccr == hinzvc 0 1 0 1 0 1) = true := by decide

theorem test_T186_wai :
    ends (at0100 { start with a := 0x11, b := 0x22, x := 0x3344, ccr := hinzvc 0 0 1 0 0 0 } [0x3E])
    (fun t => t.pc == 0x0101 && t.sp == 0x01F8 && t.mem.read 0x01FF == 0x01 &&
      t.mem.read 0x01FE == 0x01 && t.mem.read 0x01FD == 0x44 && t.mem.read 0x01FC == 0x33 &&
      t.mem.read 0x01FB == 0x11 && t.mem.read 0x01FA == 0x22 && t.mem.read 0x01F9 == 0xC8 &&
      t.run == .waiting && t.ccr == hinzvc 0 0 1 0 0 0) = true := by decide

theorem test_T118_T121_bra :
    ends (at0100 start [0x20, 0x0F]) (fun t => t.pc == 0x0111) = true ∧
    ends (at0100 start [0x20, 0x80]) (fun t => t.pc == 0x0082) = true := by decide

theorem test_T165_T168_bhi :
    ends (at0100 start [0x22, 0x10]) (fun t => t.pc == 0x0112) = true ∧
    ends (at0100 { start with ccr := hinzvc 0 1 0 1 0 1 } [0x22, 0x10])
      (fun t => t.pc == 0x0102) = true := by decide

theorem test_T172_T169_bls :
    ends (at0100 { start with ccr := hinzvc 0 1 0 1 0 1 } [0x23, 0x10])
      (fun t => t.pc == 0x0112) = true ∧
    ends (at0100 start [0x23, 0x10]) (fun t => t.pc == 0x0102) = true := by decide

theorem test_T125_T126_bcc :
    ends (at0100 start [0x24, 0x10]) (fun t => t.pc == 0x0112) = true ∧
    ends (at0100 { start with ccr := hinzvc 0 1 0 0 0 1 } [0x24, 0x10])
      (fun t => t.pc == 0x0102) = true := by decide

theorem test_T127_T128_bcs :
    ends (at0100 { start with ccr := hinzvc 0 1 0 0 0 1 } [0x25, 0x10])
      (fun t => t.pc == 0x0112) = true ∧
    ends (at0100 start [0x25, 0x10]) (fun t => t.pc == 0x0102) = true := by decide

theorem test_T131_T132_bne :
    ends (at0100 start [0x26, 0x10]) (fun t => t.pc == 0x0112) = true ∧
    ends (at0100 { start with ccr := hinzvc 0 1 0 1 0 0 } [0x26, 0x10])
      (fun t => t.pc == 0x0102) = true := by decide

theorem test_T129_T130_beq :
    ends (at0100 { start with ccr := hinzvc 0 1 0 1 0 0 } [0x27, 0x10])
      (fun t => t.pc == 0x0112) = true ∧
    ends (at0100 start [0x27, 0x10]) (fun t => t.pc == 0x0102) = true := by decide

theorem test_T137_T138_bvc :
    ends (at0100 start [0x28, 0x10]) (fun t => t.pc == 0x0112) = true ∧
    ends (at0100 { start with ccr := hinzvc 0 1 0 0 1 0 } [0x28, 0x10])
      (fun t => t.pc == 0x0102) = true := by decide

theorem test_T139_T140_bvs :
    ends (at0100 { start with ccr := hinzvc 0 1 0 0 1 0 } [0x29, 0x10])
      (fun t => t.pc == 0x0112) = true ∧
    ends (at0100 start [0x29, 0x10]) (fun t => t.pc == 0x0102) = true := by decide

theorem test_T135_T136_bpl :
    ends (at0100 start [0x2A, 0x10]) (fun t => t.pc == 0x0112) = true ∧
    ends (at0100 { start with ccr := hinzvc 0 1 1 0 0 0 } [0x2A, 0x10])
      (fun t => t.pc == 0x0102) = true := by decide

theorem test_T133_T134_bmi :
    ends (at0100 { start with ccr := hinzvc 0 1 1 0 0 0 } [0x2B, 0x10])
      (fun t => t.pc == 0x0112) = true ∧
    ends (at0100 start [0x2B, 0x10]) (fun t => t.pc == 0x0102) = true := by decide

theorem test_T146_T144_bge :
    ends (at0100 { start with ccr := hinzvc 0 1 1 1 1 0 } [0x2C, 0x10])
      (fun t => t.pc == 0x0112) = true ∧
    ends (at0100 { start with ccr := hinzvc 0 1 0 0 1 0 } [0x2C, 0x10])
      (fun t => t.pc == 0x0102) = true := by decide

theorem test_T150_T152_blt :
    ends (at0100 { start with ccr := hinzvc 0 1 0 0 1 0 } [0x2D, 0x10])
      (fun t => t.pc == 0x0112) = true ∧
    ends (at0100 { start with ccr := hinzvc 0 1 1 1 1 0 } [0x2D, 0x10])
      (fun t => t.pc == 0x0102) = true := by decide

theorem test_T154_T155_bgt :
    ends (at0100 { start with ccr := hinzvc 0 1 1 0 1 0 } [0x2E, 0x10])
      (fun t => t.pc == 0x0112) = true ∧
    ends (at0100 { start with ccr := hinzvc 0 1 1 0 0 0 } [0x2E, 0x10])
      (fun t => t.pc == 0x0102) = true := by decide

theorem test_T164_T160_ble :
    ends (at0100 { start with ccr := hinzvc 0 1 1 1 1 0 } [0x2F, 0x10])
      (fun t => t.pc == 0x0112) = true ∧
    ends (at0100 { start with ccr := hinzvc 0 1 1 0 1 0 } [0x2F, 0x10])
      (fun t => t.pc == 0x0102) = true := by decide

/-! ### Condition codes (file 45) -/

theorem test_T187_clc : ends (at0100 { start with ccr := hinzvc 1 1 1 1 1 1 } [0x0C])
    (fun t => t.ccr == hinzvc 1 1 1 1 1 0) = true := by decide

theorem test_T188_sec : ends (at0100 start [0x0D])
    (fun t => t.ccr == hinzvc 0 1 0 0 0 1) = true := by decide

theorem test_T189_clv : ends (at0100 { start with ccr := hinzvc 0 1 0 0 1 1 } [0x0A])
    (fun t => t.ccr == hinzvc 0 1 0 0 0 1) = true := by decide

theorem test_T190_sev : ends (at0100 start [0x0B])
    (fun t => t.ccr == hinzvc 0 1 0 0 1 0) = true := by decide

theorem test_T191_cli : ends (at0100 start [0x0E])
    (fun t => t.irqInhibit == true && t.ccr == hinzvc 0 0 0 0 0 0) = true := by decide

theorem test_T193_sei : ends (at0100 { start with ccr := hinzvc 0 0 0 0 0 0 } [0x0F])
    (fun t => t.irqInhibit == false && t.ccr == hinzvc 0 1 0 0 0 0) = true := by decide

theorem test_T195_tap : ends (at0100 { start with a := 0x00, ccr := hinzvc 0 1 0 0 0 1 } [0x06])
    (fun t => t.a == 0x00 && t.irqInhibit == true && t.ccr == hinzvc 0 0 0 0 0 0) = true := by decide

theorem test_T197_tap : ends (at0100 { start with a := 0x2A } [0x06])
    (fun t => t.irqInhibit == true && t.ccr == hinzvc 1 0 1 0 1 0) = true := by decide

theorem test_T199_tpa : ends (at0100 { start with ccr := hinzvc 1 1 1 1 1 1 } [0x07])
    (fun t => t.a == 0xFF && t.ccr == hinzvc 1 1 1 1 1 1) = true := by decide

theorem test_T200_tpa : ends (at0100 start [0x07])
    (fun t => t.a == 0xD0) = true := by decide

/-! ## Boundaries (file 95 part 3) -/

/-- The start of part 3: flags zero, the four vectors. -/
def eventStart : State :=
  { start with
    ccr := hinzvc 0 0 0 0 0 0
    bus := ram [(0xFFF8, 0x03), (0xFFFA, 0x04), (0xFFFC, 0x05), (0xFFFE, 0x01)] }

/-- The line levels at the next boundary. -/
def given (l : Lines) (s : State) : State :=
  { s with env := [{ lines := l, nmiPulse := false, dma := [], cycles := [], resetAfter := none }] }

/-- IRQ low, the other lines inactive. -/
def irqLow : Lines := { Lines.idle with irq := .low }

/-- NMI low, the other lines inactive. -/
def nmiLow : Lines := { Lines.idle with nmi := .low }

/-- HALT low, the other lines inactive. -/
def haltLow : Lines := { Lines.idle with halt := .low }

/-- RESET low, the other lines inactive. -/
def resetLow : Lines := { Lines.idle with reset := .low }

/-- TSC high, the other lines inactive. -/
def tscHigh : Lines := { Lines.idle with tsc := .high }

theorem test_E1_irq : ends (given irqLow (at0100
      { eventStart with a := 0xAA, b := 0xBB, x := 0x1234, ccr := hinzvc 0 0 1 0 0 1 } [0x01, 0x01]))
    (fun t => t.mem.read 0x01FF == 0x00 && t.mem.read 0x01FE == 0x01 && t.mem.read 0x01FD == 0x34 &&
      t.mem.read 0x01FC == 0x12 && t.mem.read 0x01FB == 0xAA && t.mem.read 0x01FA == 0xBB &&
      t.mem.read 0x01F9 == 0xC9 && t.sp == 0x01F8 && t.pc == 0x0300 &&
      t.ccr == hinzvc 0 1 1 0 0 1) = true := by decide

theorem test_E2_irqMasked :
    ends (given irqLow (at0100 { eventStart with ccr := hinzvc 0 1 0 0 0 0 } [0x01, 0x01]))
      (fun t => t.pc == 0x0101 && t.sp == 0x01FF) = true := by decide

theorem test_E3_nmi :
    ends (given nmiLow (at0100 { eventStart with a := 0x01, ccr := hinzvc 0 1 0 0 0 0 } [0x01]))
      (fun t => t.mem.read 0x01FE == 0x01 && t.mem.read 0x01FB == 0x01 && t.mem.read 0x01F9 == 0xD0 &&
        t.sp == 0x01F8 && t.pc == 0x0500 && t.ccr.i && !t.nmiPending) = true := by decide

/-- The first boundary of E4: both requests, NMI is answered. -/
theorem test_E4_nmiBeforeIrq :
    ends (given { irqLow with nmi := .low } (at0100 eventStart [0x01]))
      (fun t => t.mem.read 0x01F9 == 0xC0 && t.pc == 0x0500 && t.ccr.i) = true := by decide

/-- The second boundary of E5: the IRQ is not taken while the ITMP delay lasts. -/
theorem test_E5_delay :
    ends (given irqLow (at0100 { eventStart with irqInhibit := true } [0x01]))
      (fun t => t.pc == 0x0101 && !t.irqInhibit) = true := by decide

theorem test_E6_wake :
    ends (given irqLow { eventStart with run := .waiting, sp := 0x01F8 })
      (fun t => t.sp == 0x01F8 && t.ccr.i && t.pc == 0x0300 && t.run == .running) = true := by decide

theorem test_E7_maskedWait :
    ends (given irqLow { eventStart with run := .waiting, ccr := hinzvc 0 1 0 0 0 0 })
      (fun t => t.run == .waiting && t.pc == 0x0100 && t.sp == 0x01FF) = true := by decide

theorem test_E9_reset :
    ends (given Lines.idle { eventStart with
        run := .inReset, lines := resetLow, nmiPending := true, irqInhibit := true })
      (fun t => t.pc == 0x0100 && t.ccr.i && t.run == .running && !t.nmiPending && !t.irqInhibit &&
        !t.irqLatchedInHalt && t.mem == eventStart.mem) = true := by decide

theorem test_E10_unassigned : 
    step (at0100 eventStart [0x41]) = .refused (.unassignedOpcode 0x41) := rfl

theorem test_E11_halted :
    ends (given { haltLow with irq := .low } (at0100 eventStart [0x01]))
      (fun t => t.run == .halted && t.irqLatchedInHalt && t.pc == 0x0100) = true := by decide

theorem test_E11_released :
    ends (given Lines.idle (at0100
        { eventStart with run := .halted, lines := haltLow, irqLatchedInHalt := true } [0x01]))
      (fun t => t.mem.read 0x01FE == 0x01 && t.pc == 0x0300 && t.run == .running) = true := by decide

/-- R289: RESET falls after one bus cycle of a store, so the store has not happened. -/
theorem test_resetCuts :
    ends { at0100 { start with a := 0x55 } [0x97, 0x40] with
        env := [{ lines := Lines.idle, nmiPulse := false, dma := [], cycles := [], resetAfter := some 1 }] }
      (fun t => t.run == .inReset && t.mem.read 0x0040 == 0x00 && t.bus.record.length == 1) = true := by decide

/-- R289 with an interrupt sequence: RESET falls after the second push of an NMI, so PC is on the stack
and nothing else. -/
theorem test_resetCutsStacking :
    ends { eventStart with
        x := 0x1234, env := [{ lines := nmiLow, nmiPulse := false, dma := [], cycles := [], resetAfter := some 2 }] }
      (fun t => t.run == .inReset && t.mem.read 0x01FE == 0x01 && t.mem.read 0x01FD == 0x00 &&
        t.bus.record.length == 2) = true := by decide

/-- RESET before or right after the fetch of an unassigned opcode comes first; after that comes the
refusal (log 25). -/
theorem test_resetAtUnassigned :
    let s k := { at0100 start [0x41] with
        env := [{ lines := Lines.idle, nmiPulse := false, dma := [], cycles := [], resetAfter := some k }] }
    ends (s 0) (fun t => t.run == .inReset && t.bus.record.length == 0) = true ∧
    ends (s 1) (fun t => t.run == .inReset && t.bus.record.length == 1) = true ∧
    step (s 2) = .refused (.unassignedOpcode 0x41) := ⟨by decide, by decide, rfl⟩

/-- RESET low is seen while TSC is high, and falls in a step that TSC has stopped (log 39). -/
theorem test_resetUnderTsc :
    ends (given { tscHigh with reset := .low } start) (fun t => t.run == .inReset) = true ∧
    ends { start with
        env := [{ lines := tscHigh, nmiPulse := false, dma := [], cycles := [], resetAfter := some 0 }] }
      (fun t => t.run == .inReset && t.lines.reset == .low) = true := by decide

/-- TSC freezes a running machine, which latches no IRQ; a halted one does (log 39). -/
theorem test_tscLatches :
    ends (given { tscHigh with irq := .low, halt := .low } start)
      (fun t => t.run == .running && t.pc == 0x0100 && !t.irqLatchedInHalt) = true ∧
    ends (given { tscHigh with irq := .low, halt := .low } { start with run := .halted, lines := haltLow })
      (fun t => t.run == .halted && t.irqLatchedInHalt) = true := by decide

/-- BA is low while the MPU runs, high while it waits, low again under TSC (R33, R73). -/
theorem test_ba : start.ba = .low ∧ { start with run := .waiting }.ba = .high ∧
    { start with run := .waiting, lines := tscHigh }.ba = .low := by decide

/-! ## The bus, cycle by cycle (file 20) -/

/-- The step that starts here has these inputs in its cycles. -/
def withCycles (l : List CycleInput) (s : State) : State :=
  { s with env := [{ lines := Lines.idle, nmiPulse := false, dma := [], cycles := l, resetAfter := none }] }

/-- Another master writes a byte before a cycle. -/
def writeBefore (addr : Word) (v : Byte) : CycleInput := { CycleInput.quiet with others := [(addr, v)] }

/-- So many quiet cycles. -/
def quiet (n : Nat) : List CycleInput := List.replicate n CycleInput.quiet

/-- A platform with one page of a kind at 0400. -/
def pageAt0400 (k : Kind) (s : State) : State :=
  { s with bus := { s.bus with platform := [{ first := 0x0400, last := 0x04FF, kind := k }] } }

/-- R73: a 16-bit read is torn when another master writes between its cycles. LDX reads 11 before and 44
after the write of 33 44. -/
theorem test_tornRead :
    ends (withCycles (quiet 3 ++ [{ CycleInput.quiet with others := [(0x0040, 0x33), (0x0041, 0x44)] }])
        (at0100 { start with bus := ram [(0x0040, 0x11), (0x0041, 0x22)] } [0xDE, 0x40]))
      (fun t => t.x == 0x1144 && t.mem.read 0x0040 == 0x33) = true := by decide

/-- R73: a write by another master between the read and the write of INC is lost; after it, it stays. -/
theorem test_lostWrite :
    ends (withCycles (quiet 5 ++ [writeBefore 0x0200 0x80])
        (at0100 { start with bus := ram [(0x0200, 0x05)] } [0x7C, 0x02, 0x00]))
      (fun t => t.mem.read 0x0200 == 0x06) = true ∧
    ends (withCycles (quiet 3 ++ [writeBefore 0x0200 0x80])
        (at0100 { start with bus := ram [(0x0200, 0x05)] } [0x7C, 0x02, 0x00]))
      (fun t => t.mem.read 0x0200 == 0x81) = true := by decide

/-- R74: with DBE low in the write cycle, the byte stored is the one on the data bus. -/
theorem test_dbeLow :
    ends (withCycles (quiet 3 ++ [{ CycleInput.quiet with dbe := some 0x99 }])
        (at0100 { start with a := 0x55 } [0x97, 0x40]))
      (fun t => t.mem.read 0x0040 == 0x99 && t.a == 0x55) = true := by decide

/-- A store to ROM, to a device and to nothing changes no memory; to RAM it does (R44). -/
theorem test_storeByKind :
    let s k := at0100 (pageAt0400 k { start with a := 0x55 }) [0xB7, 0x04, 0x00]
    ends (s .ram) (fun t => t.mem.read 0x0400 == 0x55) = true ∧
    (∀ k ∈ [Kind.rom, .device, .nothing], ends (s k) (fun t => t.mem == (s k).mem) = true) := by decide

/-- A device answers a read with what the environment gives in that cycle; ROM with its byte. -/
theorem test_readByKind :
    ends (withCycles (quiet 3 ++ [{ CycleInput.quiet with answer := some 0x77 }])
        (at0100 (pageAt0400 .device start) [0xB6, 0x04, 0xFF]))
      (fun t => t.a == 0x77 && t.pc == 0x0103) = true ∧
    ends (withCycles (quiet 3 ++ [{ CycleInput.quiet with answer := some 0x77 }])
        (at0100 (pageAt0400 .rom { start with bus := ram [(0x04FF, 0x12)] }) [0xB6, 0x04, 0xFF]))
      (fun t => t.a == 0x77) = false := by decide

/-- A table word placed where the platform has nothing still runs as the first instruction. -/
theorem test_withFetchWord_platform :
    ends ((pageAt0400 .nothing { start with pc := 0x0400 }).withFetchWord 24 0x3412CE)
      (fun t => t.x == 0x1234 && t.pc == 0x0403) = true := by decide

/-! ## Memory (file 20) -/

/-- R46: a 16-bit value has its high byte at the lower address; FFFF is followed by 0000 (R48). -/
theorem test_byteOrder : (cells [(0xFFFF, 0x12), (0x0000, 0x34)]).read16 0xFFFF = 0x1234 := by decide

/-- Writing what an unlisted byte reads as removes the cell. -/
theorem test_canonical : (cells [(0x0002, 0x01), (0x0001, 0x02), (0x0002, 0x00)]) =
    { cells := [(1, 0x02)] } := by decide

/-! ## One witness for each statement that has hypotheses -/

theorem witness_DecodeOfEncode : (Instr.jsr (.ext 0xFFFF)).wf = true ∧
    (Instr.unassigned 0x87).wf = true := by decide

theorem witness_EncodeOfDecode :
    decode [0xBD, 0xFF, 0x00, 0x01] = .ok (.jsr (.ext 0xFF00), [0x01]) := rfl

theorem witness_UnassignedOpcodesRefuse : isUnassigned 0x00 = true ∧ isUnassigned 0xFD = true ∧
    isUnassigned 0x01 = false ∧ isUnassigned 0xFF = false := by decide

/-- A byte of RAM at both ends of memory, by each mode, that no other master writes. -/
theorem witness_EffectiveAddresses : ∀ m ∈ [Mem.dir 0xFF, .ind 0xFF, .ext 0xFFFF, .ext 0x0000],
    ReadsMemory start (m.ea start) := by
  simp only [ReadsMemory, InMemory, Untouched]; decide

/-- Both ends of the range of BCD bytes, in both clauses. -/
theorem witness_DecimalAdditionOfBcdBytes :
    (99 < 100 ∧ { start with a := 0x99, b := 0x99 }.a = bcd 99 ∧
      (Src8.imm 0x99).value start = bcd 99 ∧ { start with a := 0x99, b := 0x99 }.b = bcd 99) ∧
    (0 < 100 ∧ start.a = bcd 0 ∧ (Src8.imm 0x00).value start = bcd 0 ∧ start.b = bcd 0) := by decide

/-- No correction, 06, 60 and 66, each at a boundary value of its clause. -/
theorem witness_DecimalAdjust :
    let low (a : Byte) := 9 < a.toNat % 16
    let high (a : Byte) := 9 < a.toNat / 16 ∨ (9 ≤ a.toNat / 16 ∧ 9 < a.toNat % 16)
    (¬low 0x99 ∧ ¬high 0x99) ∧ (low 0x8A ∧ ¬high 0x8A) ∧ (¬low 0xA0 ∧ high 0xA0) ∧
    (low 0x9A ∧ high 0x9A) := by decide

/-- X = 0001 against 0000 (no borrow) and X = 0000 against 0001, where the borrow is the parameter. -/
theorem witness_CompareIndexRegister :
    (false = true ↔ ((lo8 0x0001).toNat < (lo8 0x0000).toNat ∧ Config.cpxMsBorrow = true)) ∧
    (Config.cpxMsBorrow = true ↔
      ((lo8 0x0000).toNat < (lo8 0x0001).toNat ∧ Config.cpxMsBorrow = true)) := by
  refine ⟨?_, ?_⟩ <;> simp [lo8]

/-- The stack in RAM, the stack pointer at both ends of memory. -/
theorem witness_PushAndPull : ∀ sp ∈ [(0x01FF : Word), 0x0000, 0xFFFF],
    StoresMemory { start with sp := sp } sp :=
  fun _ _ => ⟨rfl, untouched_nil _, drivesData_nil⟩

/-- A word across the end of memory. -/
theorem witness_LoadAndStoreSixteenBit :
    ReadsMemory start ((Mem.ext 0xFFFF).ea start) ∧ ReadsMemory start ((Mem.ext 0xFFFF).ea start + 1) := by
  simp only [ReadsMemory, InMemory, Untouched]; decide

/-- Each condition holds in one of three flag registers and fails in another (BRA's always holds). -/
theorem witness_BranchConditions :
    let f := hinzvc 0 1 0 0 0 0
    let g := hinzvc 0 1 1 1 0 1
    let k := hinzvc 0 1 0 0 1 0
    (f.c = false ∧ g.c = true) ∧ (f.z = false ∧ g.z = true) ∧ (f.n = false ∧ g.n = true) ∧
    (f.v = false ∧ k.v = true) ∧ ((f.c = false ∧ f.z = false) ∧ (g.c = true ∨ g.z = true)) ∧
    (f.n = f.v ∧ g.n ≠ g.v) ∧ ((f.z = false ∧ f.n = f.v) ∧ (g.z = true ∨ g.n ≠ g.v)) := by decide

/-- 80 is above 7F as an unsigned and below it as a signed number; equality for the other clauses. -/
theorem witness_CompareThenBranchOrders :
    let s : State := { start with a := 0x80, b := 0x7F }
    let m := Src8.imm 0x7F
    (m.value s).toNat < s.a.toNat ∧ s.a.toInt < (m.value s).toInt ∧ s.b = m.value s ∧
    s.b.toNat < s.a.toNat ∧ s.a.toInt < s.b.toInt ∧ s.a ≠ s.b := by decide

/-- The two overlaps of JSR extended with its stack, and none; PC is after the instruction. -/
theorem witness_SubroutineCalls :
    let s : State := { start with pc := 0x0103 }
    { s with sp := 0x0102 }.sp = s.pc - 1 ∧ { s with sp := 0x0103 }.sp - 1 = s.pc - 1 ∧
    ¬(s.sp = s.pc - 1 ∨ s.sp - 1 = s.pc - 1) := by decide

theorem witness_ReturnUndoesCall :
    ((∃ rel, Instr.bsr 0x20 = .bsr rel) ∨ (∃ m, Instr.bsr 0x20 = .jsr m)) ∧
    ((∃ rel, Instr.jsr (.ext 0x2000) = .bsr rel) ∨ (∃ m, Instr.jsr (.ext 0x2000) = .jsr m)) ∧
    StoresMemory start start.sp ∧ StoresMemory start (start.sp - 1) := by
  exact ⟨.inl ⟨_, rfl⟩, .inr ⟨_, rfl⟩, ⟨rfl, untouched_nil _, drivesData_nil⟩,
    ⟨rfl, untouched_nil _, drivesData_nil⟩⟩

theorem witness_ReturnUndoesSoftwareInterrupt :
    ∀ w ∈ stackedBytes start.pc start, StoresMemory start w.1 :=
  fun _ _ => ⟨rfl, untouched_nil _, drivesData_nil⟩

/-! The premise of `MakesCycles`: a fetch reads the instruction. `decodesAll` above shows it for each of the
256 opcodes; here it is for one form of each cycle statement. -/

/-- The bytes of an instruction at 0100. -/
def fetches (i : Instr) : Bool := decide ((at0100 start (encode i)).fetchInstr.1 = i)

theorem witness_TransferBetweenAccumulators : fetches .tab = true ∧ fetches .tba = true := by decide

theorem witness_NoOperationAndFlagInstructions :
    ∀ i ∈ [Instr.nop, .clc, .sec, .clv, .sev], fetches i = true := by decide

theorem witness_TransferConditionCodesToA : fetches .tpa = true := by decide

theorem witness_ImmediateAndDirectCycles :
    ∀ i ∈ [Instr.adcA (.imm 0x12), .subB (.mem (.dir 0x12)), .cpx (.imm 0x1234), .ldx (.mem (.dir 0x12)),
      .staA (.dir 0x12), .sts (.dir 0x12)], fetches i = true := by decide

theorem witness_IndexedCycles :
    ∀ i ∈ [Instr.jmp (.ind 0x12), .addA (.mem (.ind 0x12)), .lds (.mem (.ind 0x12)), .staB (.ind 0x12),
      .stx (.ind 0x12), .jsr (.ind 0x12), .inc (.ind 0x12), .tst (.ind 0x12)], fetches i = true := by decide

theorem witness_ExtendedCycles :
    ∀ i ∈ [Instr.jmp (.ext 0x1234), .addA (.mem (.ext 0x1234)), .lds (.mem (.ext 0x1234)),
      .jsr (.ext 0x1234), .staB (.ext 0x1234), .stx (.ext 0x1234), .inc (.ext 0x1234),
      .tst (.ext 0x1234)], fetches i = true := by decide

theorem witness_InherentCycles :
    ∀ i ∈ [Instr.aba, .des, .ins, .dex, .inx, .tsx, .txs, .pshA, .pulB, .rts], fetches i = true := by
  decide

theorem witness_InterruptAndBranchCycles :
    ∀ i ∈ [Instr.wai, .rti, .swi, .bcc 0x12, .bsr 0x12], fetches i = true := by decide

/-- The kinds of address, at both ends of a region and just outside it; a device with an answer; a byte
that no other master writes, and one that another does. -/
theorem witness_BusAccessByKind :
    (∀ k ∈ [Kind.ram, .rom, .device, .nothing],
      kindAt (pageAt0400 k start).bus.platform 0x0400 = k ∧
      kindAt (pageAt0400 k start).bus.platform 0x04FF = k ∧
      kindAt (pageAt0400 k start).bus.platform 0x03FF = .ram ∧
      kindAt (pageAt0400 k start).bus.platform 0x0500 = .ram) ∧
    { CycleInput.quiet with answer := some 0x77 }.answer = some 0x77 ∧
    Untouched [writeBefore 0x0200 0x80] 0x0201 ∧ ¬Untouched [writeBefore 0x0200 0x80] 0x0200 := by
  simp only [Untouched]; decide

theorem witness_CycleCounts : ∀ op, Instr.nop ≠ .unassigned op := by simp

/-- A read-modify-write after a fetch cycle, with another master's write among its cycles. -/
theorem witness_MemoryIsReplayOfBusWrites :
    let s := State.fetch8
      { start with bus := { start.bus with inputs := quiet 1 ++ [writeBefore 0x0200 0x80] } }
    s.bus.record ≠ [] ∧ (∃ t, exec (.inc (.ext 0x0040)) s = .next t) ∧ InMemory s 0x0040 := by
  refine ⟨by decide, ⟨_, rfl⟩, ?_⟩
  simp only [InMemory]; decide

/-- An instruction that keeps every flag, and one that keeps all but Z. -/
theorem witness_FlagsOutsideMatrixAreKept :
    (∃ t, exec .nop start = .next t) ∧ Instr.nop.mayWrite = hinzvc 0 0 0 0 0 0 ∧
    (∃ t, exec .inx start = .next t) ∧ Instr.inx.mayWrite = hinzvc 0 0 0 1 0 0 :=
  ⟨⟨_, rfl⟩, rfl, ⟨_, rfl⟩, rfl⟩

/-- An instruction of each clause, and one of none. -/
theorem witness_RegisterWriters : (∃ t, exec .inx start = .next t) ∧ (∃ t, exec .pshA start = .next t) ∧
    (∃ t, exec .wai start = .next t) ∧ (∃ t, exec .tab start = .next t) :=
  ⟨⟨_, rfl⟩, ⟨_, rfl⟩, ⟨_, rfl⟩, ⟨_, rfl⟩⟩

/-- A sequential instruction at the top of memory, where PC wraps, and one that loads PC. -/
theorem witness_SequentialProgramCounter :
    (let s : State := { start with pc := 0xFFFE, bus := ram [(0xFFFE, 0xCE), (0xFFFF, 0x12), (0x0000, 0x34)] }
     s.fetchInstr.1 = .ldx (.imm 0x1234)) ∧
    (∃ t, exec (.ldx (.imm 0x1234)) start = .next t) ∧ (∃ t, exec (.bra 0xFE) start = .next t) :=
  ⟨by decide, ⟨_, rfl⟩, ⟨_, rfl⟩⟩

theorem witness_HalfCarryFeedsDecimalAdjustOnly : Instr.aba ≠ .daa ∧ Instr.aba ≠ .tpa ∧
    Instr.aba ≠ .swi ∧ Instr.aba ≠ .wai ∧ ∃ t, exec .aba { start with a := 0x0F, b := 0x01 } = .next t :=
  ⟨by decide, by decide, by decide, by decide, _, rfl⟩

/-- Where each step of `StepRunsDecodedInstruction` starts: no request; IRQ masked by I; IRQ delayed,
the machine just out of the halted state. -/
def runStarts : List State :=
  [at0100 start [0xCE, 0x12, 0x34],
   given irqLow (at0100 start [0xCE, 0x12, 0x34]),
   given irqLow (at0100 { eventStart with irqInhibit := true, run := .halted, lines := haltLow }
    [0xCE, 0x12, 0x34])]

/-- The state in which the instruction is fetched, written out. -/
def executing (s : State) : State :=
  { s.onBus with
    lines := s.sample.lines, env := s.env.tail
    irqLatchedInHalt := s.irqLatchedInHalt && !s.ccr.i, irqInhibit := false, run := .running }

theorem witness_StepRunsDecodedInstruction : ∀ s ∈ runStarts,
    OpenBoundary s ∧ (s.run = .running ∨ s.run = .halted) ∧ ¬NmiRequested s ∧
    (IrqRequested s → s.ccr.i = true ∨ s.irqInhibit = true) ∧ AtExecute s (executing s) ∧
    (∀ k < 3, ReadsMemory (executing s) (s.pc + BitVec.ofNat 16 k)) ∧
    decode [(executing s).mem.read s.pc, (executing s).mem.read (s.pc + 1),
      (executing s).mem.read (s.pc + 2)] = .ok (.ldx (.imm 0x1234), []) := by
  simp only [runStarts, List.forall_mem_cons, OpenBoundary, NmiRequested, IrqRequested, AtExecute,
    ReadsMemory, InMemory, Untouched]
  refine ⟨?_, ?_, ?_, by simp⟩ <;>
    exact ⟨by decide, by decide, by decide, by decide, rfl, by decide, rfl⟩

/-- Both alternatives of `StepCompletesOrMeetsUnassignedOpcode` happen. -/
theorem witness_StepCompletesOrMeetsUnassignedOpcode :
    (∃ t, step (at0100 start [0x01]) = .next t) ∧
    (isUnassigned ((at0100 start [0x02]).afterDma.read 0x0100) = true ∧
      step (at0100 start [0x02]) = .refused (.unassignedOpcode 0x02)) :=
  ⟨⟨_, rfl⟩, by decide, rfl⟩

/-- NMI by an edge and by the latch, with I = 1 and with IRQ low as well. -/
theorem witness_NonMaskableInterruptSequence :
    ∀ s ∈ [given nmiLow start, given irqLow { eventStart with nmiPending := true, run := .halted }],
      OpenBoundary s ∧ (s.run = .running ∨ s.run = .halted) ∧ NmiRequested s := by
  simp only [List.forall_mem_cons, OpenBoundary, NmiRequested]
  refine ⟨?_, ?_, by simp⟩ <;> decide

/-- IRQ by the line, and by the latch of the halted state. -/
theorem witness_InterruptRequestSequence :
    ∀ s ∈ [given irqLow eventStart,
        given Lines.idle { eventStart with irqLatchedInHalt := true, run := .halted, lines := haltLow }],
      OpenBoundary s ∧ (s.run = .running ∨ s.run = .halted) ∧ ¬NmiRequested s ∧ IrqRequested s ∧
      s.ccr.i = false ∧ s.irqInhibit = false := by
  simp only [List.forall_mem_cons, OpenBoundary, NmiRequested, IrqRequested]
  refine ⟨?_, ?_, by simp⟩ <;> decide

/-- CLI, NOP, SEI and CLI, SEI with IRQ low throughout. -/
theorem witness_InterruptWindow : ∀ b ∈ [(0x01 : Byte), 0x0F],
    let s := { at0100 start [0x0E, b, 0x0F] with lines := irqLow }
    s.env = [] ∧ s.run = .running ∧ s.nmiPending = false ∧ s.ccr.i = true ∧ s.irqInhibit = false ∧
    s.lines = { reset := .high, halt := .high, irq := .low, nmi := .high, tsc := .low } ∧
    InMemory s s.pc ∧ InMemory s (s.pc + 1) ∧ s.mem.read s.pc = 0x0E ∧ s.mem.read (s.pc + 1) = b := by
  simp only [InMemory]; decide

/-- A machine in the wait state. -/
def waiting : State := { eventStart with run := .waiting }

/-- NMI, IRQ with I = 0, IRQ with I = 1, and no request at all. -/
theorem witness_WaitStateExits :
    (OpenBoundary (given nmiLow waiting) ∧ (given nmiLow waiting).run = .waiting ∧
      NmiRequested (given nmiLow waiting)) ∧
    (OpenBoundary (given irqLow waiting) ∧ ¬NmiRequested (given irqLow waiting) ∧
      IrqRequested (given irqLow waiting) ∧ (given irqLow waiting).ccr.i = false) ∧
    (OpenBoundary (given irqLow { waiting with ccr := hinzvc 0 1 0 0 0 0 }) ∧
      ¬NmiRequested (given irqLow { waiting with ccr := hinzvc 0 1 0 0 0 0 }) ∧
      (IrqRequested (given irqLow { waiting with ccr := hinzvc 0 1 0 0 0 0 }) →
        (given irqLow { waiting with ccr := hinzvc 0 1 0 0 0 0 }).ccr.i = true)) ∧
    (OpenBoundary waiting ∧ ¬NmiRequested waiting ∧ ¬IrqRequested waiting) := by
  simp only [OpenBoundary, NmiRequested, IrqRequested]; decide

/-- A masked wait with HALT and IRQ low in one of two samples. -/
theorem witness_MaskedWaitLastsForever :
    let s : State := { waiting with
      ccr := hinzvc 0 1 0 0 0 0
      env := [{ lines := { haltLow with irq := .low }, nmiPulse := false, dma := [], cycles := [], resetAfter := none },
        { lines := irqLow, nmiPulse := false, dma := [], cycles := [], resetAfter := none }] }
    s.run = .waiting ∧ s.ccr.i = true ∧ s.nmiPending = false ∧ s.lines.reset = .high ∧
    s.lines.tsc = .low ∧
    (∀ p ∈ s.env, p.lines.reset = .high ∧ p.lines.tsc = .low ∧ p.lines.nmi = .high ∧
      p.nmiPulse = false ∧ p.dma = [] ∧ p.resetAfter = none) := by decide

/-- HALT falls while the machine runs and while it waits. -/
theorem witness_HaltSuspends : ∀ s ∈ [given haltLow start, given haltLow waiting],
    s.sample.resetAfter = none ∧ s.sample.lines.tsc = .low ∧ s.sample.lines.reset = .high ∧
    s.sample.lines.halt = .low ∧ s.run ≠ .inReset := by decide

/-- RESET low, with TSC high and HALT low too; RESET high again after it, with HALT low. -/
theorem witness_ResetHoldAndSequence :
    (∀ s ∈ [given resetLow start, given { tscHigh with reset := .low, halt := .low } start],
      s.sample.resetAfter = none ∧ s.sample.lines.reset = .low) ∧
    (∀ s ∈ [given Lines.idle { eventStart with run := .inReset, lines := resetLow },
        given haltLow { eventStart with run := .inReset, lines := resetLow }],
      s.sample.resetAfter = none ∧ s.sample.lines.tsc = .low ∧ s.sample.lines.reset = .high ∧
      s.run = .inReset) := by decide

/-- A sample in which RESET does not fall. -/
def sampleOf (l : Lines) : Sample :=
  { lines := l, nmiPulse := false, dma := [], cycles := [], resetAfter := none }

/-- A four-cycle store, an unassigned opcode and an NMI, each whole and with RESET after `k` cycles of it;
`k` before the first cycle, at the bounds of the clauses and after the last cycle. -/
theorem witness_ResetCutsInstructionShort :
    (∀ k ∈ [0, 3, 4, 99], { start with env := [{ sampleOf Lines.idle with resetAfter := some k }] }.env =
      { sampleOf Lines.idle with resetAfter := some k } :: []) ∧
    (∃ t, step { at0100 { start with a := 0x55 } [0x97, 0x40] with env := [sampleOf Lines.idle] } = .next t ∧
      (mpuCycles t.bus.record).length = 4) ∧
    step { at0100 start [0x41] with env := [sampleOf Lines.idle] } = .refused (.unassignedOpcode 0x41) ∧
    (∀ s ∈ [{ start with env := [sampleOf nmiLow] }, { eventStart with env := [sampleOf irqLow] }],
      OpenBoundary s ∧ s.run = .running ∧
      (NmiRequested s ∨ (IrqRequested s ∧ s.ccr.i = false ∧ s.irqInhibit = false)) ∧
      DrivesData (sampleOf nmiLow).cycles) := by
  simp only [OpenBoundary, NmiRequested, IrqRequested, DrivesData]
  exact ⟨by decide, ⟨_, rfl, rfl⟩, rfl, by decide⟩

/-- TSC high: running; halted with an IRQ, which is latched; in reset. -/
theorem witness_ThreeStateFreezes :
    ∀ s ∈ [given tscHigh start,
        given { tscHigh with irq := .low, halt := .low } { start with run := .halted, lines := haltLow },
        given tscHigh { start with run := .inReset, lines := resetLow }],
      s.sample.lines.tsc = .high ∧ s.sample.lines.reset = .high ∧ s.sample.resetAfter = none := by decide

/-- The bus held by the MPU, and released in each of the three ways. -/
theorem witness_OtherMastersNeedReleasedBus :
    (∃ p rest, (given Lines.idle start).env = p :: rest) ∧
    (start.run ≠ .waiting ∧ start.run ≠ .halted ∧ start.lines.tsc = .low) ∧
    waiting.run = .waiting ∧ { start with run := .halted }.run = .halted ∧
    { start with lines := tscHigh }.lines.tsc = .high := ⟨⟨_, _, rfl⟩, by decide⟩

/-- A step into the wait state, and a step that clears I. -/
theorem witness_OnlyTheseEventsWaitOrUnmask :
    (∃ t, step (at0100 start [0x3E]) = .next t ∧ t.run = .waiting) ∧
    (∃ t, step (at0100 start [0x0E]) = .next t ∧ start.ccr.i = true ∧ t.ccr.i = false) :=
  ⟨⟨_, rfl, rfl⟩, ⟨_, rfl, rfl, rfl⟩⟩

theorem witness_RestingOutputLines :
    { start with lines := tscHigh }.lines.tsc = .high ∧
    (start.lines.tsc = .low ∧ { start with run := .inReset }.run = .inReset) ∧
    waiting.lines.tsc = .low ∧ waiting.run = .waiting ∧ { start with run := .halted }.run = .halted := by
  decide

theorem witness_StepKeepsMemoryCanonical :
    (at0100 start [0x97, 0x40]).mem.wf = true ∧ ∃ t, step (at0100 start [0x97, 0x40]) = .next t :=
  ⟨by decide, _, rfl⟩

/-- The invariant holds of a running, a held and a halted machine, each of which has a next state. -/
theorem witness_StepKeepsControlInvariant :
    ∀ s ∈ [at0100 { eventStart with irqInhibit := true } [0x01],
        { start with run := .inReset, lines := resetLow }, { start with run := .halted, lines := haltLow }],
      ControlInv s ∧ ∃ t, step s = .next t := by
  simp only [List.forall_mem_cons, ControlInv]
  exact ⟨⟨by decide, _, rfl⟩, ⟨by decide, _, rfl⟩, ⟨by decide, _, rfl⟩, by simp⟩

end Sys2Proof.Machine.Tests
end

section
/-! PROOFS. What an instruction may write besides A, B, PC, the flags and the bus, and that every step
keeps the control state consistent. -/

namespace Sys2Proof.Machine

open Sys2Proof

/-! ## What an instruction may write besides A, B, PC, the flags and the bus -/

/-- Some fields of the state, as a set. -/
structure Fields where
  x : Bool
  sp : Bool
  run : Bool
  irqInhibit : Bool

/-- Which of these fields an instruction may write (R12, R14, R28, R29). -/
def writtenFields : Instr → Fields
  | .inx | .dex | .tsx | .ldx _ => ⟨true, false, false, false⟩
  | .ins | .des | .txs | .lds _ | .pshA | .pshB | .pulA | .pulB | .bsr _ | .jsr _ | .rts | .swi =>
    ⟨false, true, false, false⟩
  | .wai => ⟨false, true, true, false⟩
  | .rti => ⟨true, true, false, true⟩
  | .cli | .tap => ⟨false, false, false, true⟩
  | _ => ⟨false, false, false, false⟩

/-- From `s` to `t` only the given fields may change, and A, B, PC, the flags, the count of free values
and the bus. -/
structure Frame (w : Fields) (s t : State) : Prop where
  x : w.x = false → t.x = s.x
  sp : w.sp = false → t.sp = s.sp
  run : w.run = false → t.run = s.run
  irqInhibit : w.irqInhibit = false → t.irqInhibit = s.irqInhibit
  nmiPending : t.nmiPending = s.nmiPending
  irqLatchedInHalt : t.irqLatchedInHalt = s.irqLatchedInHalt
  lines : t.lines = s.lines
  env : t.env = s.env

theorem Frame.setCcr {w : Fields} {s t : State} (h : Frame w s t) (f : Ccr) :
    Frame w s (t.setCcr f) :=
  ⟨h.x, h.sp, h.run, h.irqInhibit, h.nmiPending, h.irqLatchedInHalt, h.lines, h.env⟩

theorem Frame.setDraws {w : Fields} {s t : State} (h : Frame w s t) (n : Nat) :
    Frame w s (t.setDraws n) :=
  ⟨h.x, h.sp, h.run, h.irqInhibit, h.nmiPending, h.irqLatchedInHalt, h.lines, h.env⟩

section Shapes

variable (w : Fields) (s : State)

theorem binaryOp_frame (r : Acc) (m : Src8) (f : Byte → Byte → Ccr → Byte × Ccr) :
    Frame w s (binaryOp r m f s) := by constructor <;> simp [binaryOp]

theorem compareOp_frame (r : Acc) (m : Src8) (f : Byte → Byte → Ccr → Ccr) :
    Frame w s (compareOp r m f s) := by constructor <;> simp [compareOp]

theorem accOp_frame (r : Acc) (f : Byte → Ccr → Byte × Ccr) : Frame w s (accOp r f s) := by
  constructor <;> simp [accOp]

theorem memOp_frame (m : IndExt) (f : Byte → Ccr → Byte × Ccr) : Frame w s (memOp m f s) := by
  constructor <;> simp [memOp]

theorem accTest_frame (r : Acc) : Frame w s (accTest r s) := by constructor <;> simp [accTest]

theorem memTest_frame (m : IndExt) : Frame w s (memTest m s) := by constructor <;> simp [memTest]

theorem storeAcc_frame (r : Acc) (m : Mem) : Frame w s (storeAcc r m s) := by
  constructor <;> simp [storeAcc]

theorem storeWord_frame (v : Word) (m : Mem) : Frame w s (storeWord v m s) := by
  constructor <;> simp [storeWord]

theorem flagOp_frame (f : Ccr → Ccr) : Frame w s (flagOp f s) := by constructor <;> simp [flagOp]

theorem branchIf_frame (c : Bool) (rel : Byte) : Frame w s (branchIf c rel s) := by
  rw [branchIf_eq]; constructor <;> simp

theorem pushAcc_frame (h : w.sp = true) (r : Acc) : Frame w s (pushAcc r s) := by
  constructor <;> simp [pushAcc, h]

theorem pullAcc_frame (h : w.sp = true) (r : Acc) : Frame w s (pullAcc r s) := by
  constructor <;> simp [pullAcc, h]

theorem stackPointerOp_frame (h : w.sp = true) (old new : Word) :
    Frame w s (stackPointerOp old new s) := by constructor <;> simp [stackPointerOp, h]

theorem indexOp_frame (h : w.x = true) (old new : Word) : Frame w s (indexOp old new s) := by
  constructor <;> simp [indexOp, h]

end Shapes

theorem execJsr_frame {m : IndExt} {s t : State} (h : execJsr m s = .next t) :
    Frame (writtenFields (.jsr m)) s t := by
  cases m with
  | ind o => cases h; constructor <;> simp [writtenFields]
  | ext a =>
    simp only [execJsr] at h
    split at h <;> cases h <;> constructor <;> simp [writtenFields]

/-- Every instruction keeps the fields that it is not listed to write. -/
theorem exec_frame {i : Instr} {s t : State} (h : exec i s = .next t) :
    Frame (writtenFields i) s t := by
  cases i
  case jsr => exact execJsr_frame h
  case unassigned => cases h
  case bsr | rts | jmp | cpx | ldx | lds | nop | tap | tpa | cli | rti | wai | swi =>
    cases h; constructor <;> simp [writtenFields]
  case inx | dex => cases h; exact (indexOp_frame _ s rfl _ _).setCcr _
  case daa => cases h; exact (accOp_frame _ s _ _).setDraws _
  case tsx => cases h; exact indexOp_frame _ s rfl _ _
  case ins | des | txs => cases h; exact stackPointerOp_frame _ s rfl _ _
  case pulA | pulB => cases h; exact pullAcc_frame _ s rfl _
  case pshA | pshB => cases h; exact pushAcc_frame _ s rfl _
  case tst => cases h; exact memTest_frame _ s _
  case tstA | tstB => cases h; exact accTest_frame _ s _
  case staA | staB => cases h; exact storeAcc_frame _ s _ _
  case sts | stx => cases h; exact storeWord_frame _ s _ _
  case cmpA | cmpB | bitA | bitB => cases h; exact compareOp_frame _ s _ _ _
  case cba | clv | sev | clc | sec | sei => cases h; exact flagOp_frame _ s _
  case sba | aba | negA | decA | incA | negB | decB | incB | comA | lsrA | rorA | asrA | aslA |
    rolA | clrA | comB | lsrB | rorB | asrB | aslB | rolB | clrB | tab | tba =>
    cases h; exact accOp_frame _ s _ _
  case neg | dec | inc | com | lsr | ror | asr | asl | rol | clr =>
    cases h; exact memOp_frame _ s _ _
  case subA | sbcA | adcA | addA | subB | sbcB | adcB | addB | andA | eorA | oraA | andB | eorB
    | oraB | ldaA | ldaB =>
    cases h; exact binaryOp_frame _ s _ _ _
  case bra | bhi | bls | bcc | bcs | bne | beq | bvc | bvs | bpl | bmi | bge | blt | bgt | ble =>
    cases h; exact branchIf_frame _ s _ _

/-- Settles O40: each clause is a field of `exec_frame`, and WAI sets the run state itself. -/
theorem registerWriters : Obligations.RegisterWriters := by
  intro i s t h
  have hf := exec_frame h
  refine ⟨?_, ?_, ?_⟩
  · cases i
    case ldx | inx | dex | tsx | rti => trivial
    all_goals exact hf.x rfl
  · cases i
    case lds | txs | ins | des | pshA | pshB | pulA | pulB | bsr | jsr | rts | rti | swi | wai => trivial
    all_goals exact hf.sp rfl
  · cases i
    case wai => cases h; rfl
    all_goals exact hf.run rfl

/-! ## What an instruction may write of the flags (R24) -/

/-- From the flags `f` to the flags `g` only those in `w` may change. -/
def KeepsFlags (w f g : Ccr) : Prop :=
  (w.h = false → g.h = f.h) ∧ (w.i = false → g.i = f.i) ∧ (w.n = false → g.n = f.n) ∧
  (w.z = false → g.z = f.z) ∧ (w.v = false → g.v = f.v) ∧ (w.c = false → g.c = f.c)

theorem KeepsFlags.refl (w f : Ccr) : KeepsFlags w f f :=
  ⟨fun _ => rfl, fun _ => rfl, fun _ => rfl, fun _ => rfl, fun _ => rfl, fun _ => rfl⟩

theorem add8_keepsFlags (a m : Byte) (cin : Bool) (f : Ccr) :
    KeepsFlags ⟨true, false, true, true, true, true⟩ f (add8 a m cin f).2 := by
  simp [KeepsFlags, add8]

theorem sub8_keepsFlags (a m : Byte) (bin : Bool) (f : Ccr) :
    KeepsFlags ⟨false, false, true, true, true, true⟩ f (sub8 a m bin f).2 := by
  simp [KeepsFlags, sub8]

theorem neg8_keepsFlags (m : Byte) (f : Ccr) :
    KeepsFlags ⟨false, false, true, true, true, true⟩ f (neg8 m f).2 := by
  simp [KeepsFlags, neg8]

theorem inc8_keepsFlags (m : Byte) (f : Ccr) :
    KeepsFlags ⟨false, false, true, true, true, false⟩ f (inc8 m f).2 := by
  simp [KeepsFlags, inc8]

theorem dec8_keepsFlags (m : Byte) (f : Ccr) :
    KeepsFlags ⟨false, false, true, true, true, false⟩ f (dec8 m f).2 := by
  simp [KeepsFlags, dec8]

theorem daa8_keepsFlags (a : Byte) (v : Bool) (f : Ccr) :
    KeepsFlags ⟨false, false, true, true, true, true⟩ f (daa8 a v f).2 := by
  simp [KeepsFlags, daa8]

theorem logicFlags_keepsFlags (r : Byte) (f : Ccr) :
    KeepsFlags ⟨false, false, true, true, true, false⟩ f (logicFlags r f) := by
  simp [KeepsFlags, logicFlags]

theorem com8_keepsFlags (m : Byte) (f : Ccr) :
    KeepsFlags ⟨false, false, true, true, true, true⟩ f (com8 m f).2 := by
  simp [KeepsFlags, com8, logicFlags]

theorem clr8_keepsFlags (m : Byte) (f : Ccr) :
    KeepsFlags ⟨false, false, true, true, true, true⟩ f (clr8 m f).2 := by
  simp [KeepsFlags, clr8]

theorem tstFlags_keepsFlags (m : Byte) (f : Ccr) :
    KeepsFlags ⟨false, false, true, true, true, true⟩ f (tstFlags m f) := by
  simp [KeepsFlags, tstFlags, logicFlags]

/-- The flags of every shift and rotate. -/
theorem shiftFlags_keepsFlags (r : Byte) (out : Bool) (f : Ccr) :
    KeepsFlags ⟨false, false, true, true, true, true⟩ f (shiftFlags r out f) := by
  simp [KeepsFlags, shiftFlags]

theorem wordFlags_keepsFlags (v : Word) (f : Ccr) :
    KeepsFlags ⟨false, false, true, true, true, false⟩ f (wordFlags v f) := by
  simp [KeepsFlags, wordFlags]

theorem indexFlags_keepsFlags (v : Word) (f : Ccr) :
    KeepsFlags ⟨false, false, false, true, false, false⟩ f (indexFlags v f) := by
  simp [KeepsFlags, indexFlags]

theorem cpxFlags_keepsFlags (x m : Word) (f : Ccr) :
    KeepsFlags ⟨false, false, true, true, true, false⟩ f (cpxFlags x m f) := by
  simp [KeepsFlags, cpxFlags]

/-- JSR writes no flag, in either form. -/
theorem execJsr_ccr {m : IndExt} {s t : State} (h : execJsr m s = .next t) : t.ccr = s.ccr := by
  cases m with
  | ind o => cases h; simp
  | ext a =>
    simp only [execJsr] at h
    split at h <;> cases h <;> simp

/-- Every instruction keeps the flags outside its row of the matrix. -/
theorem exec_keepsFlags {i : Instr} {s t : State} (h : exec i s = .next t) :
    KeepsFlags i.mayWrite s.ccr t.ccr := by
  cases i
  case unassigned => cases h
  case tap | rti => exact ⟨nofun, nofun, nofun, nofun, nofun, nofun⟩
  case jsr => rw [execJsr_ccr h]; exact .refl _ _
  case bra | bhi | bls | bcc | bcs | bne | beq | bvc | bvs | bpl | bmi | bge | blt | bgt | ble =>
    cases h; rw [branchIf_eq]; exact .refl _ _
  case ins | des | txs => cases h; rw [stackPointerOp_eq]; exact .refl _ _
  case nop | tpa | tsx | pulA | pulB | pshA | pshB | rts | wai | bsr | jmp =>
    cases h; simpa [indexOp, pullAcc, pushAcc] using KeepsFlags.refl _ s.ccr
  case clv | sev | clc | sec | cli | sei | swi => cases h; simp [KeepsFlags, Instr.mayWrite, flagOp]
  case aba | adcA | addA | adcB | addB => cases h; exact add8_keepsFlags _ _ _ s.ccr
  case sba | cba | subA | cmpA | sbcA | subB | cmpB | sbcB =>
    cases h; exact sub8_keepsFlags _ _ _ s.ccr
  case daa => cases h; exact daa8_keepsFlags _ _ s.ccr
  case neg | negA | negB => cases h; exact neg8_keepsFlags _ s.ccr
  case inc | incA | incB => cases h; exact inc8_keepsFlags _ s.ccr
  case dec | decA | decB => cases h; exact dec8_keepsFlags _ s.ccr
  case com | comA | comB => cases h; exact com8_keepsFlags _ s.ccr
  case clr | clrA | clrB => cases h; exact clr8_keepsFlags 0 s.ccr
  case tst | tstA | tstB => cases h; exact tstFlags_keepsFlags _ s.ccr
  case lsr | ror | asr | asl | rol | lsrA | rorA | asrA | aslA | rolA | lsrB | rorB | asrB | aslB
    | rolB => cases h; exact shiftFlags_keepsFlags _ _ s.ccr
  case tab | tba | andA | bitA | ldaA | eorA | oraA | andB | bitB | ldaB | eorB | oraB | staA | staB =>
    cases h; exact logicFlags_keepsFlags _ s.ccr
  case ldx | lds | stx | sts => cases h; exact wordFlags_keepsFlags _ s.ccr
  case inx | dex => cases h; exact indexFlags_keepsFlags _ s.ccr
  case cpx => cases h; exact cpxFlags_keepsFlags _ _ s.ccr

/-- Settles O39: `KeepsFlags` for the instruction's row of the matrix, written out. -/
theorem flagsOutsideMatrixAreKept : Obligations.FlagsOutsideMatrixAreKept :=
  fun _ _ _ h => exec_keepsFlags h

/-! ## The interrupt mask and its delay (R19, R28) -/

/-- Only CLI, TAP and RTI clear I: SEI and SWI set it, and the matrix has no other writer (R19). -/
theorem exec_unmasks {i : Instr} {s t : State} (h : exec i s = .next t) (hs : s.ccr.i = true)
    (ht : t.ccr.i = false) : i = .cli ∨ i = .tap ∨ i = .rti := by
  have keep : i.mayWrite.i = false → t.ccr.i = s.ccr.i := (exec_keepsFlags h).2.1
  have kept : t.ccr.i ≠ s.ccr.i := by simp [hs, ht]
  cases i
  case cli | tap | rti => simp
  case sei | swi => cases h; exact absurd ht (by simp [flagOp])
  all_goals exact absurd (keep rfl) kept

/-- Only WAI enters the wait state (R29). -/
theorem exec_waits {i : Instr} {s t : State} (h : exec i s = .next t) (hs : s.run ≠ .waiting)
    (ht : t.run = .waiting) : i = .wai := by
  have keep : (writtenFields i).run = false → t.run = s.run := (exec_frame h).run
  cases i
  case wai => rfl
  all_goals exact absurd ((keep rfl).symm.trans ht) hs

/-- An instruction leaves the run state, or puts Waiting there. -/
theorem exec_run {i : Instr} {s t : State} (h : exec i s = .next t) :
    t.run = s.run ∨ t.run = .waiting := by
  have keep : (writtenFields i).run = false → t.run = s.run := (exec_frame h).run
  cases i
  case wai => cases h; exact .inr rfl
  all_goals exact .inl (keep rfl)

/-- RTI delays IRQ only where it clears I. -/
theorem returnFromInterrupt_irqInhibit (s : State) : s.returnFromInterrupt.irqInhibit =
    (s.irqInhibit || (s.ccr.i && !s.returnFromInterrupt.ccr.i && Config.rtiIClearDelayed)) := rfl

/-- An instruction that delays IRQ has cleared I and does not wait (R28, R251, R256, R281). -/
theorem exec_irqInhibit {i : Instr} {s t : State} (h : exec i s = .next t)
    (hs : s.irqInhibit = false) (ht : t.irqInhibit = true) : t.ccr.i = false ∧ t.run = s.run := by
  have keep : (writtenFields i).irqInhibit = false → t.irqInhibit = s.irqInhibit :=
    (exec_frame h).irqInhibit
  have kept : t.irqInhibit ≠ s.irqInhibit := by simp [hs, ht]
  cases i
  case cli => cases h; exact ⟨rfl, rfl⟩
  case tap =>
    cases h
    simp only [State.loadCcrDelayed_irqInhibit, State.dummyRead_irqInhibit, hs, Bool.false_or,
      Bool.and_eq_true, Bool.not_eq_true'] at ht
    exact ⟨ht.2, rfl⟩
  case rti =>
    cases h
    simp only [returnFromInterrupt_irqInhibit, State.dummyRead_irqInhibit, hs, Bool.false_or,
      Bool.and_eq_true, Bool.not_eq_true'] at ht
    obtain ⟨⟨-, cleared⟩, -⟩ := ht
    exact ⟨cleared, by simp⟩
  all_goals exact absurd (keep rfl) kept

/-! ## What leads to each action (R300) -/

namespace State

theorem high_of_ne_low {l : Level} (h : l ≠ .low) : l = .high := by cases l <;> simp_all

theorem low_of_ne_high {l : Level} (h : l ≠ .high) : l = .low := by cases l <;> simp_all

/-- The tests of R300 in their order, with what each test has found. -/
theorem action_cases (s : State) :
    (s.lines.reset = .low ∧ s.action = .holdReset) ∨
    (s.lines.reset = .high ∧ s.lines.tsc = .high ∧ s.action = .frozen) ∨
    (s.lines.reset = .high ∧ s.lines.tsc = .low ∧
      ((s.run = .inReset ∧ s.action = .leaveReset) ∨
      (s.run ≠ .inReset ∧ s.lines.halt = .low ∧ s.action = .holdHalt) ∨
      (s.run = .waiting ∧ (s.action = .keepWaiting ∨ ∃ v, s.action = .wake v)) ∨
      (s.run ≠ .inReset ∧ s.run ≠ .waiting ∧
        (s.action = .execute ∨ ∃ v, s.action = .interrupt v)))) := by
  unfold action
  by_cases reset : s.lines.reset = .low
  · exact .inl ⟨reset, if_pos reset⟩
  rw [if_neg reset]
  by_cases tsc : s.lines.tsc = .high
  · exact .inr (.inl ⟨high_of_ne_low reset, tsc, if_pos tsc⟩)
  rw [if_neg tsc]
  refine .inr (.inr ⟨high_of_ne_low reset, low_of_ne_high tsc, ?_⟩)
  by_cases inReset : s.run = .inReset
  · exact .inl ⟨inReset, if_pos inReset⟩
  rw [if_neg inReset]
  by_cases halt : s.lines.halt = .low
  · exact .inr (.inl ⟨inReset, halt, if_pos halt⟩)
  rw [if_neg halt]
  by_cases waiting : s.run = .waiting
  · refine .inr (.inr (.inl ⟨waiting, ?_⟩))
    rw [if_pos waiting]
    split_ifs <;> simp
  · refine .inr (.inr (.inr ⟨inReset, waiting, ?_⟩))
    rw [if_neg waiting]
    split_ifs <;> simp

@[simp] theorem acknowledge_lines (v : InterruptVector) (s : State) :
    (s.acknowledge v).lines = s.lines := by cases v <;> rfl
@[simp] theorem acknowledge_irqInhibit (v : InterruptVector) (s : State) :
    (s.acknowledge v).irqInhibit = s.irqInhibit := by cases v <;> rfl

/-! ## The control state after every step (R28, R29, R300) -/

/-- The clauses of `ControlInv` on the lines hold of any state with high RESET that is running or
waiting. -/
theorem controlInv_of_active {t : State} (hl : t.lines.reset = .high)
    (hr : t.run = .running ∨ t.run = .waiting)
    (hi : t.irqInhibit = true → t.ccr.i = false ∧ t.run ≠ .waiting) : ControlInv t := by
  refine ⟨hi, ?_, ?_, ?_⟩ <;> rcases hr with hr | hr <;> simp [hl, hr]

/-- The same of any state that RESET holds. -/
theorem controlInv_of_held {t : State} (hl : t.lines.reset = .low) (hr : t.run = .inReset)
    (hi : t.irqInhibit = true → t.ccr.i = false) : ControlInv t := by
  refine ⟨fun h => ⟨hi h, ?_⟩, ?_, ?_, ?_⟩ <;> simp [hl, hr]

/-- What executes may delay IRQ only by clearing I, and only WAI waits. -/
theorem execute_controlInv {s u : State} (hl : s.lines.reset = .high)
    (h : s.perform exec .execute = .next u) : ControlInv u := by
  have h : exec s.readyToExecute.fetchInstr.1 s.readyToExecute.fetchInstr.2 = .next u := h
  have hrun : s.readyToExecute.fetchInstr.2.run = .running := by simp [readyToExecute_eq]
  have hinh : s.readyToExecute.fetchInstr.2.irqInhibit = false := by simp [readyToExecute_eq]
  refine controlInv_of_active ?_ ?_ fun hu => ?_
  · rw [(exec_frame h).lines, fetchInstr_lines]; exact hl
  · rw [← hrun]; exact exec_run h
  · obtain ⟨hi, hr⟩ := exec_irqInhibit h hinh hu
    exact ⟨hi, by rw [hr, hrun]; exact nofun⟩

/-- Every action of a boundary leaves the control state consistent where the delay was consistent
before it. -/
theorem perform_controlInv {s u : State}
    (hi : s.irqInhibit = true → s.ccr.i = false ∧ s.run ≠ .waiting)
    (h : s.perform exec s.action = .next u) : ControlInv u := by
  rcases s.action_cases with ⟨reset, act⟩ | ⟨reset, tsc, act⟩ | ⟨reset, tsc, ⟨run, act⟩ |
    ⟨run, halt, act⟩ | ⟨run, act | ⟨v, act⟩⟩ | ⟨inReset, waiting, act | ⟨v, act⟩⟩⟩ <;> rw [act] at h
  · cases h; exact controlInv_of_held reset rfl fun k => (hi k).1
  · cases h; rw [freeze_eq]
    exact ⟨hi, by simp [reset], by simp [tsc], by simp [tsc]⟩
  · cases h; exact controlInv_of_active reset (.inl rfl) nofun
  · cases h; rw [halt_eq]
    refine ⟨fun k => ⟨(hi k).1, ?_⟩, by simp [reset], fun _ => ?_, fun _ _ => halt⟩
    · have := (hi k).2
      dsimp only
      split_ifs <;> simp [this]
    · dsimp only
      split_ifs <;> simp [run]
  · cases h; exact controlInv_of_active reset (.inr run) hi
  · cases h
    exact controlInv_of_active (by simpa) (.inl rfl) fun k => absurd run (hi (by simpa using k)).2
  · exact execute_controlInv reset h
  · cases h; exact controlInv_of_active (by simpa) (.inl rfl) nofun

end State

/-- Settles O59: by what the step can do; where RESET cuts it short, the delay is the one that the whole
step or the fetch has left. -/
theorem stepKeepsControlInvariant : Obligations.StepKeepsControlInvariant := by
  intro s t inv h
  have hi : s.sampled.irqInhibit = true → s.sampled.ccr.i = false ∧ s.sampled.run ≠ .waiting := inv.1
  rcases State.step_cases h with ⟨-, hu⟩ | ⟨k, u, -, hu, rfl⟩ | ⟨k, -, -, rfl⟩
  · exact State.perform_controlInv hi hu
  · exact State.controlInv_of_held rfl rfl fun ku => ((State.perform_controlInv hi hu).1 ku).1
  · exact State.controlInv_of_held rfl rfl fun ku =>
      absurd ku (by simp [State.cutByReset, State.readyToExecute_eq])

end Sys2Proof.Machine
end

section
/-! PROOFS. The machine at instruction boundaries: interrupt sequences, HALT, RESET, the output lines, and
which instructions wait or unmask. -/

namespace Sys2Proof

open Machine

/-! ## The opcode of a decoded instruction (R80, R93) -/

/-- What a cell builds has the opcode `op` as its first byte. -/
def MapCell.HasOpcode (c : MapCell) (op : Byte) : Prop :=
  ∀ b1 b2 : Byte, (encode (c.build op b1 b2)).head? = some op

/-- A row of the map from column `k` on, in row `r`: each cell stands at its opcode. -/
def RowHasOpcodes (r : Nat) : Nat → List MapCell → Prop
  | _, [] => True
  | k, c :: rest => c.HasOpcode (BitVec.ofNat 8 (16 * r + k)) ∧ RowHasOpcodes r (k + 1) rest

/-- Every row of the map is right: it is gone through cell by cell (R93). -/
theorem opcodeRow_hasOpcodes (r : Nat) : RowHasOpcodes r 0 (opcodeRow r) := by
  unfold opcodeRow
  split
  case h_17 => trivial
  all_goals
    iterate 16 refine ⟨fun b1 b2 => rfl, ?_⟩
    trivial

theorem RowHasOpcodes.getD {r j : Nat} {l : List MapCell} (h : RowHasOpcodes r j l) (k : Nat) :
    (l.getD k .star).HasOpcode (BitVec.ofNat 8 (16 * r + (j + k))) := by
  induction l generalizing j k with
  | nil => exact fun _ _ => rfl
  | cons c rest ih =>
    cases k with
    | zero => exact h.1
    | succ k =>
      have := ih h.2 k
      rwa [show j + 1 + k = j + (k + 1) by omega] at this

/-- The first byte of a decoded instruction is the opcode that it was decoded from. -/
theorem decodeBytes_opcode (op b1 b2 : Byte) :
    (encode (decodeBytes op b1 b2)).head? = some op := by
  have h := (opcodeRow_hasOpcodes (op.toNat / 16)).getD (op.toNat % 16)
  have hop : BitVec.ofNat 8 (16 * (op.toNat / 16) + (0 + op.toNat % 16)) = op := by
    rw [Nat.zero_add, Nat.div_add_mod]; simp
  rw [hop] at h
  exact h b1 b2

namespace Machine

/-- The first byte of a fetched instruction is the byte read at PC (R82). -/
theorem State.fetchInstr_opcode (s : State) :
    (encode s.fetchInstr.1).head? = some (s.readData s.pc) := by
  dsimp only [fetchInstr]
  split <;> exact decodeBytes_opcode _ _ _

/-! ## Which steps wait or unmask (R19, R29) -/

/-- An action after which the machine waits, where it did not before, is the execution of WAI. -/
theorem State.perform_waits {s u : State} (h : s.perform exec s.action = .next u)
    (hs : s.run ≠ .waiting) (hu : u.run = .waiting) :
    s.action = .execute ∧ s.readData s.pc = 0x3E := by
  have kept : u.run ≠ s.run := hu ▸ hs.symm
  cases act : s.action <;> rw [act] at h
  case execute =>
    have hi := exec_waits h (by rw [fetchInstr_run]; exact nofun) hu
    have hop := s.readyToExecute.fetchInstr_opcode
    rw [hi] at hop
    exact ⟨rfl, (Option.some.inj hop).symm⟩
  case frozen => cases h; rw [freeze_eq] at kept; exact absurd rfl kept
  case keepWaiting => cases h; exact absurd rfl kept
  case holdHalt =>
    cases h; rw [halt_eq] at hu; dsimp only at hu
    split_ifs at hu
    exact absurd hu hs
  case holdReset | leaveReset | wake | interrupt => cases h; exact nomatch hu

/-- An action that clears I is the execution of CLI, TAP or RTI. -/
theorem State.perform_unmasks {s u : State} (h : s.perform exec s.action = .next u)
    (hs : s.ccr.i = true) (hu : u.ccr.i = false) :
    s.action = .execute ∧
      (s.readData s.pc = 0x0E ∨ s.readData s.pc = 0x06 ∨ s.readData s.pc = 0x3B) := by
  have kept : u.ccr.i ≠ s.ccr.i := by simp [hs, hu]
  cases act : s.action <;> rw [act] at h
  case execute =>
    have hop := s.readyToExecute.fetchInstr_opcode
    refine ⟨rfl, ?_⟩
    rcases exec_unmasks h (by simpa [readyToExecute_eq]) hu with hi | hi | hi <;> rw [hi] at hop
    · exact .inl (Option.some.inj hop).symm
    · exact .inr (.inl (Option.some.inj hop).symm)
    · exact .inr (.inr (Option.some.inj hop).symm)
  case frozen => cases h; rw [freeze_eq] at kept; exact absurd rfl kept
  case holdHalt => cases h; rw [halt_eq] at kept; exact absurd rfl kept
  case leaveReset | wake | interrupt => cases h; simp at hu
  case holdReset | keepWaiting => cases h; exact absurd rfl kept

/-- Settles O55: a step that RESET cuts short ends in reset, with the flags of the whole step or of the
fetch. -/
theorem onlyTheseEventsWaitOrUnmask : Obligations.OnlyTheseEventsWaitOrUnmask := by
  intro s t h
  rcases State.step_cases h with ⟨-, hu⟩ | ⟨k, u, -, hu, rfl⟩ | ⟨k, -, -, rfl⟩
  · refine ⟨fun ht => ?_, fun hs ht => State.perform_unmasks hu hs ht⟩
    by_cases hs : s.run = .waiting
    · exact .inl hs
    · exact .inr (State.perform_waits hu hs ht)
  · exact ⟨nofun, fun hs ht => State.perform_unmasks hu hs ht⟩
  · refine ⟨nofun, fun hs ht => absurd ht ?_⟩
    simp [State.cutByReset, State.readyToExecute_eq, hs]

/-! ## Interrupt sequences (R275 to R279) -/

/-- A boundary that answers a request: the registers stacked, I set, PC from the vector, the request
withdrawn, everything else kept. -/
theorem step_of_interrupt {s : State} {v : InterruptVector} (hr : s.sample.resetAfter = none)
    (ha : s.sampled.action = .interrupt v) :
    ∃ t, step s = .next t ∧ StacksRegisters s.pc s.onBus t ∧ LoadsVector v.addr s.onBus t ∧
      t.ccr = { s.ccr with i := true } ∧ t.a = s.a ∧ t.b = s.b ∧ t.x = s.x ∧ t.run = .running ∧
      t.nmiPending = (s.sampled.acknowledge v).nmiPending ∧ t.irqInhibit = false ∧
      t.irqLatchedInHalt = (s.sampled.acknowledge v).irqLatchedInHalt := by
  have bus : s.onBus.bus = (s.sampled.acknowledge v).bus := by simp
  have stores := (s.sampled.acknowledge v).takeInterrupt_stores v
  have loads := (s.sampled.acknowledge v).takeInterrupt_loads v
  refine ⟨(((s.sampled.acknowledge v).takeInterrupt v).setIrqInhibit false).setRun .running,
    by rw [State.step_of_no_reset hr, ha]; rfl, ⟨?_, ?_⟩, loads.congr bus rfl rfl, ?_⟩
  · cases v <;> simp [State.acknowledge]
  · cases v <;> exact stores.congr bus rfl
  · cases v <;> simp [State.acknowledge]

/-- Settles O45: an NMI request leads to the sequence of `step_of_interrupt`. -/
theorem nonMaskableInterruptSequence : Obligations.NonMaskableInterruptSequence :=
  fun _ ho hr hn => step_of_interrupt ho.1 (State.action_of_nmi ho hr hn)

/-- Settles O46: without a request no NMI is pending afterwards either. -/
theorem interruptRequestSequence : Obligations.InterruptRequestSequence := by
  intro s ho hr hn hi hc hd
  have noNmi : s.sampled.nmiPending = false :=
    Bool.eq_false_iff.2 (mt (State.nmiLatched_iff ho.2.2.1 (by rcases hr with h | h <;> simp [h])).1 hn)
  obtain ⟨t, hstep, stacked, loads, ccr, a, b, x, run, nmi, inhibit, latch⟩ :=
    step_of_interrupt ho.1 (State.action_of_irq ho hr hn hi hc hd)
  exact ⟨t, hstep, stacked, loads, ccr, a, b, x, run, nmi.trans noNmi, inhibit, latch⟩

/-! ## HALT and RESET at a boundary (R289, R290, R320, R321) -/

/-- HALT low holds a machine that is not in reset, where RESET and TSC let it be seen. -/
theorem State.action_of_halt {s : State} (hr : s.lines.reset = .high) (ht : s.lines.tsc = .low)
    (hh : s.lines.halt = .low) (hn : s.run ≠ .inReset) : s.action = .holdHalt := by
  simp [action, hr, ht, hh, hn]

/-- RESET low comes before everything else. -/
theorem State.action_of_reset_low {s : State} (hr : s.lines.reset = .low) : s.action = .holdReset :=
  if_pos hr

/-- A machine in reset leaves it where RESET is high and the clocks run. -/
theorem State.action_of_reset_high {s : State} (hr : s.lines.reset = .high) (ht : s.lines.tsc = .low)
    (hn : s.run = .inReset) : s.action = .leaveReset := by simp [action, hr, ht, hn]

/-- Settles O50: the step is `halt`, on the state that the sample leaves. -/
theorem haltSuspends : Obligations.HaltSuspends := by
  intro s hna htsc hreset hhalt hrun
  have hact : s.sampled.action = .holdHalt := State.action_of_halt hreset htsc hhalt hrun
  refine ⟨s.sampled.halt, by rw [State.step_of_no_reset hna, hact]; rfl, ?_⟩
  rw [State.halt_eq]
  refine ⟨rfl, rfl, rfl, rfl, rfl, rfl, rfl, rfl, rfl, ?_, State.nmiLatched_iff hreset hrun, ?_⟩
  · cases h : s.run <;> simp_all
  · dsimp only [IrqRequested]
    rw [Bool.or_eq_true, decide_eq_true_eq, or_comm]; rfl

/-- Settles O51: RESET low only sets the run state; high again, the step is the reset sequence. -/
theorem resetHoldAndSequence : Obligations.ResetHoldAndSequence := by
  intro s hna
  constructor
  · intro hlow
    refine ⟨s.sampled.setRun .inReset, ?_, rfl, rfl, rfl, rfl, rfl, rfl, rfl, rfl, rfl⟩
    rw [State.step_of_no_reset hna, State.action_of_reset_low (s := s.sampled) hlow]; rfl
  · intro htsc hhigh hrun
    have runs := s.sampled.resetSequence_runs
    have loads := s.sampled.freeRegisters.enterHandler_loads .reset
    refine ⟨s.sampled.resetSequence, ?_, rfl, rfl, Stores.nil_of_runs (s := s.onBus) runs rfl,
      loads.congr rfl rfl rfl, CyclesFit.of_runs (s := s.onBus) runs, rfl, rfl, rfl⟩
    rw [State.step_of_no_reset hna, State.action_of_reset_high (s := s.sampled) hhigh htsc hrun]; rfl

/-! ## The output lines and the reset state (R33, R34, R43) -/

/-- BA by the two things it depends on. -/
theorem State.ba_high_iff (s : State) :
    s.ba = .high ↔ s.lines.tsc = .low ∧ (s.run = .waiting ∨ s.run = .halted) := by
  unfold ba
  cases s.lines.tsc <;> cases s.run <;> simp

/-- TSC high forces BA low, whatever the run state is (R73). -/
theorem State.ba_of_tsc {s : State} (h : s.lines.tsc = .high) : s.ba = .low := if_pos h

theorem State.restingPins_of_tsc {s : State} (h : s.lines.tsc = .high) : s.restingPins =
    some { ba := s.ba, vma := .low, rw := none, addressBus := none, dataBus := none } := if_pos h

theorem State.restingPins_of_reset {s : State} (h : s.lines.tsc = .low) (hr : s.run = .inReset) :
    s.restingPins = some
      { ba := .low, vma := .low, rw := some .high, addressBus := some 0xFFFE, dataBus := none } := by
  simp [restingPins, ba, h, hr]

theorem State.restingPins_of_released {s : State} (h : s.lines.tsc = .low)
    (hr : s.run = .waiting ∨ s.run = .halted) : s.restingPins =
      some { ba := .high, vma := .low, rw := none, addressBus := none, dataBus := none } := by
  rcases hr with hr | hr <;> simp [restingPins, ba, h, hr]

/-- Settles O56: the lines in each of the three resting states, and in a cycle. -/
theorem restingOutputLines : Obligations.RestingOutputLines := by
  intro s c
  refine ⟨s.ba_high_iff, rfl, ?_, rfl, rfl, rfl, ?_, ?_, ?_⟩
  · cases h : c.vma <;> simp [BusCycle.pins, h]
  · exact fun h => ⟨_, State.restingPins_of_tsc h, State.ba_of_tsc h, rfl, rfl, rfl⟩
  · exact fun h hr => ⟨_, State.restingPins_of_reset h hr, rfl, rfl, rfl, rfl, rfl⟩
  · exact fun h hr => ⟨_, State.restingPins_of_released h hr, rfl, rfl, rfl, rfl, rfl⟩

/-- Settles O57: PC is what the vector holds, and a running machine with no delay is consistent. -/
theorem resetStateAndInvariants : Obligations.ResetStateAndInvariants :=
  ⟨rfl, rfl, reset_pc_eq_vector, rfl, rfl, rfl, reset_mem_wf,
    State.controlInv_of_active rfl (.inl rfl) nofun⟩

end Machine

end Sys2Proof
end

section
/-! PROOFS. Instructions one by one: addition, subtraction and compare, the stack, the interrupt mask and
the return from an interrupt. -/

namespace Sys2Proof.Machine

open Sys2Proof

/-! ## The flags of addition and subtraction (R18, R20 to R23, R121, R122) -/

/-- The sign bit of a byte as a range of its value. -/
theorem msb_iff (r : Byte) : r.msb = true ↔ 128 ≤ r.toNat := by
  simp [BitVec.msb_eq_decide]

/-- A byte as a signed number. -/
theorem toInt_byte (r : Byte) : r.toInt = if 128 ≤ r.toNat then (r.toNat : Int) - 256 else r.toNat := by
  rw [BitVec.toInt_eq_toNat_cond]
  split_ifs <;> omega

/-- Z of a byte, as the kernels compute it. -/
theorem decide_eq_zero_iff (r : Byte) : decide (r = 0) = true ↔ r.toNat = 0 := by
  rw [decide_eq_true_eq, ← BitVec.toNat_inj]; rfl

/-- N and Z, as the kernels compute them. -/
theorem signAndZero_of_result {r : Byte} {g : Ccr} (hn : g.n = r.msb) (hz : g.z = decide (r = 0)) :
    SignAndZero r g := ⟨hn ▸ msb_iff r, hz ▸ decide_eq_zero_iff r⟩

theorem add8_toNat (p q : Byte) (cin : Bool) (f : Ccr) :
    (add8 p q cin f).1.toNat = (p.toNat + q.toNat + cin.toNat) % 256 := by simp [add8]

/-- V of a sum: operands of one sign and a result of the other, as ranges of the bytes. -/
theorem add8_v_iff (p q : Byte) (cin : Bool) (f : Ccr) : (add8 p q cin f).2.v = true ↔
    (128 ≤ p.toNat ↔ 128 ≤ q.toNat) ∧ ¬(128 ≤ (add8 p q cin f).1.toNat ↔ 128 ≤ p.toNat) := by
  rw [← msb_iff, ← msb_iff, ← msb_iff]
  exact (by decide : ∀ a b c : Bool, ((a == b) && (c != a)) = true ↔
    (a = true ↔ b = true) ∧ ¬(c = true ↔ a = true)) p.msb q.msb _

/-- The model's sum follows the rules of ADD, ADC and ABA. -/
theorem add8_sumRule (p q : Byte) (cin : Bool) (f : Ccr) :
    SumRule p q cin f (add8 p q cin f).1 (add8 p q cin f).2 := by
  refine ⟨add8_toNat p q cin f, by simp [add8], rfl, signAndZero_of_result rfl rfl, ?_,
    by simp [add8]⟩
  have hc : cin.toNat ≤ 1 := Bool.toNat_le cin
  have hp := p.isLt
  have hq := q.isLt
  rw [add8_v_iff, add8_toNat, toInt_byte, toInt_byte]
  split_ifs <;> omega

theorem sub8_toNat (p q : Byte) (bin : Bool) (f : Ccr) :
    (sub8 p q bin f).1.toNat = (p.toNat + 512 - q.toNat - bin.toNat) % 256 := by
  have hb : bin.toNat ≤ 1 := Bool.toNat_le bin
  have hq := q.isLt
  simp only [sub8, BitVec.toNat_ofInt]
  omega

/-- V of a difference: operands of two signs and a result of the second's, as ranges of the bytes. -/
theorem sub8_v_iff (p q : Byte) (bin : Bool) (f : Ccr) : (sub8 p q bin f).2.v = true ↔
    ¬(128 ≤ p.toNat ↔ 128 ≤ q.toNat) ∧ ¬(128 ≤ (sub8 p q bin f).1.toNat ↔ 128 ≤ p.toNat) := by
  rw [← msb_iff, ← msb_iff, ← msb_iff]
  exact (by decide : ∀ a b c : Bool, ((a != b) && (c != a)) = true ↔
    ¬(a = true ↔ b = true) ∧ ¬(c = true ↔ a = true)) p.msb q.msb _

/-- The model's flags of a difference follow the rules of the subtractions and compares. -/
theorem sub8_differenceFlags (p q : Byte) (bin : Bool) (f : Ccr) :
    DifferenceFlags p q bin f (sub8 p q bin f).2 := by
  have hb : bin.toNat ≤ 1 := Bool.toNat_le bin
  have hp := p.isLt
  have hq := q.isLt
  refine ⟨rfl, rfl, ?_, ?_, ?_, ?_⟩
  · rw [← sub8_toNat p q bin f]; exact msb_iff _
  · rw [← sub8_toNat p q bin f]; exact decide_eq_zero_iff _
  · rw [sub8_v_iff, sub8_toNat, toInt_byte, toInt_byte]
    split_ifs <;> omega
  · simp only [sub8, decide_eq_true_eq]
    omega

theorem sub8_differenceRule (p q : Byte) (bin : Bool) (f : Ccr) :
    DifferenceRule p q bin f (sub8 p q bin f).1 (sub8 p q bin f).2 :=
  ⟨sub8_toNat p q bin f, sub8_differenceFlags p q bin f⟩

/-! ## Claims about an instruction of one shape -/

theorem binaryOp_onlyAcc (r : Acc) (m : Src8) (f : Byte → Byte → Ccr → Byte × Ccr) (s : State) :
    OnlyAcc r s (binaryOp r m f s) := by
  refine ⟨?_, Stores.nil_of_runs (binaryOp_runs r m f s) (m.rows_written s)⟩
  cases r
  · rw [binaryOp_a_eq]
  · rw [binaryOp_b_eq]

theorem accOp_onlyAcc (r : Acc) (f : Byte → Ccr → Byte × Ccr) (s : State) :
    OnlyAcc r s (accOp r f s) := by
  refine ⟨?_, Stores.nil_of_runs (accOp_runs r f s) rfl⟩
  cases r
  · rw [accOp_a_eq]
  · rw [accOp_b_eq]

theorem compareOp_onlyFlags (r : Acc) (m : Src8) (f : Byte → Byte → Ccr → Ccr) (s : State) :
    OnlyFlags s (compareOp r m f s) :=
  ⟨by rw [compareOp_eq], Stores.nil_of_runs (compareOp_runs r m f s) (m.rows_written s)⟩

theorem flagOp_onlyFlags (f : Ccr → Ccr) (s : State) : OnlyFlags s (flagOp f s) :=
  ⟨by rw [flagOp_eq], Stores.nil_of_runs (flagOp_runs f s) rfl⟩

/-- A two-operand instruction into an accumulator follows the rule that its kernel follows. -/
theorem binaryOnAcc_of_binaryOp {i : Instr} {r : Acc} {m : Src8}
    {f : Byte → Byte → Ccr → Byte × Ccr} {rule : Byte → Byte → Ccr → Byte → Ccr → Prop} {s : State}
    (hi : exec i s = .next (binaryOp r m f s))
    (hr : ∀ p q c, rule p q c (f p q c).1 (f p q c).2) : BinaryOnAcc i r (m.value s) rule s := by
  refine ⟨_, hi, ?_, binaryOp_onlyAcc r m f s⟩
  simpa [binaryOp] using hr (s.acc r) (m.value s) s.ccr

/-- The same of an instruction whose second operand is the other accumulator. -/
theorem binaryOnAcc_of_accOp {i : Instr} {r : Acc} {q : Byte} {f : Byte → Byte → Ccr → Byte × Ccr}
    {rule : Byte → Byte → Ccr → Byte → Ccr → Prop} {s : State}
    (hi : exec i s = .next (accOp r (fun p c => f p q c) s))
    (hr : ∀ p q c, rule p q c (f p q c).1 (f p q c).2) : BinaryOnAcc i r q rule s := by
  refine ⟨_, hi, ?_, accOp_onlyAcc r _ s⟩
  simpa [accOp] using hr (s.acc r) q s.ccr

/-- Settles O6: each instruction is a shape over `add8`. -/
theorem additionInstructions : Obligations.AdditionInstructions := by
  intro s m
  have add := fun p q f => add8_sumRule p q false f
  have adc := fun p q (f : Ccr) => add8_sumRule p q f.c f
  exact ⟨binaryOnAcc_of_binaryOp rfl add, binaryOnAcc_of_binaryOp rfl add,
    binaryOnAcc_of_binaryOp rfl adc, binaryOnAcc_of_binaryOp rfl adc, binaryOnAcc_of_accOp rfl add⟩

/-- Settles O7: each instruction is a shape over `sub8`. -/
theorem subtractionAndCompare : Obligations.SubtractionAndCompare := by
  intro s m
  have sub := fun p q f => sub8_differenceRule p q false f
  have sbc := fun p q (f : Ccr) => sub8_differenceRule p q f.c f
  exact ⟨binaryOnAcc_of_binaryOp rfl sub, binaryOnAcc_of_binaryOp rfl sub,
    binaryOnAcc_of_binaryOp rfl sbc, binaryOnAcc_of_binaryOp rfl sbc, binaryOnAcc_of_accOp rfl sub,
    ⟨_, rfl, sub8_differenceFlags _ _ _ _, compareOp_onlyFlags _ _ _ _⟩,
    ⟨_, rfl, sub8_differenceFlags _ _ _ _, compareOp_onlyFlags _ _ _ _⟩,
    ⟨_, rfl, sub8_differenceFlags _ _ _ _, flagOp_onlyFlags _ _⟩⟩

/-! ## The condition codes as a byte, and the interrupt mask (R17, R28, R251, R254, R256) -/

/-- A byte loaded into the condition codes and stored again has bits 7 and 6 set (R17). -/
theorem Ccr.toByte_ofByte : ∀ v : Byte, (Ccr.ofByte v).toByte = v ||| 0xC0 := by decide

/-- Loading the flags through ITMP changes the flags, the delay and the bus, and stores nothing. -/
theorem dummyRead_loadCcrDelayed_eq (s : State) (f : Ccr) :
    s.dummyRead.loadCcrDelayed f = { s with
      ccr := f, irqInhibit := s.irqInhibit || (s.ccr.i && !f.i), bus := s.dummyRead.bus } := rfl

theorem State.dummyRead_stores (s : State) : Stores [] s s.dummyRead :=
  Stores.nil_of_runs s.dummyRead_runs rfl

/-- Settles O31: SEI is a flag operation, CLI and TAP load the flags through ITMP. -/
theorem interruptMaskInstructions : Obligations.InterruptMaskInstructions := by
  intro s
  refine ⟨⟨_, rfl, ?_, ?_⟩, ⟨_, rfl, ?_, ?_, ?_, ?_⟩, ⟨_, rfl, ?_, ?_, ?_, ?_⟩⟩
  · rw [flagOp_eq]
  · exact (flagOp_onlyFlags _ s).2
  · rfl
  · simp
  · rw [dummyRead_loadCcrDelayed_eq]
  · exact s.dummyRead_stores.congr rfl rfl
  · exact Ccr.toByte_ofByte s.a
  · simp
  · rw [dummyRead_loadCcrDelayed_eq]
  · exact s.dummyRead_stores.congr rfl rfl

/-! ## The stack: push and pull (R14, R174 to R176) -/

/-- A byte that cycles have stored in RAM is what a read gets after them. -/
theorem State.readData_of_written {s u : State} {rows : List Row} (h : s.bus.Runs rows u.bus)
    (hn : ((rows.filterMap Row.written).map Prod.fst).Nodup) {w : Word × Byte}
    (hw : w ∈ rows.filterMap Row.written) (hs : StoresMemory s w.1) : u.readData w.1 = w.2 :=
  (readData_of_memory (readsMemory_of_runs h (readsMemory_of_storesMemory hs))).trans
    (h.read_of_written hn hw hs.1 hs.2.1 hs.2.2)

/-- One more pull is one more read. -/
theorem Reads.pull8 {s t : State} {rs : List (Word × Byte)} {rows : List Row} (h : Reads rs s t)
    (k : s.bus.Runs rows t.bus) : Reads (rs ++ [(t.sp + 1, t.pullData)]) s t.pull8 :=
  (h.readCycle k (t.sp + 1)).congr rfl rfl

theorem pushAcc_stores (r : Acc) (s : State) : Stores [(s.sp, s.acc r)] s (pushAcc r s) :=
  Stores.of_runs (pushAcc_runs r s) (List.nodup_singleton s.sp)

theorem pullAcc_stores (r : Acc) (s : State) : Stores [] s (pullAcc r s) :=
  Stores.nil_of_runs (pullAcc_runs r s) rfl

@[simp] theorem acc_pullAcc (r : Acc) (s : State) :
    (pullAcc r s).acc r = (s.dummyRead.idle s.sp).pullData := by simp [pullAcc]

theorem pullAcc_reads (r : Acc) (s : State) :
    Reads [(s.sp + 1, (pullAcc r s).acc r)] s (pullAcc r s) := by
  have runs := s.dummyRead_runs.trans (s.dummyRead.idle_runs s.sp)
  rw [acc_pullAcc]
  exact ((Reads.nil_of_runs runs).pull8 runs).congr rfl (State.setAcc_bus _ _ _)

/-- A pull right after a push, into either accumulator, gets the byte pushed, where the push lands. -/
theorem acc_pullAcc_pushAcc (q r : Acc) {s : State} (h : StoresMemory s s.sp) :
    (pullAcc q (pushAcc r s)).acc q = s.acc r := by
  have hsp : (pushAcc r s).sp + 1 = s.sp := by simp [pushAcc]
  have runs := (pushAcc_runs r s).trans ((pushAcc r s).dummyRead_runs.trans
    ((pushAcc r s).dummyRead.idle_runs (pushAcc r s).sp))
  rw [acc_pullAcc]
  show State.readData _ ((pushAcc r s).sp + 1) = _
  rw [hsp]
  exact State.readData_of_written runs (List.nodup_singleton s.sp) (List.mem_singleton_self _) h

/-- A pull right after a push gives SP and the flags back. -/
theorem pullAcc_pushAcc_sp_ccr (q r : Acc) (s : State) :
    (pullAcc q (pushAcc r s)).sp = s.sp ∧ (pullAcc q (pushAcc r s)).ccr = s.ccr := by
  simp [pullAcc, pushAcc]

/-- Settles O16: `pushAcc` and `pullAcc`, and what a pull gets right after a push. -/
theorem pushAndPull : Obligations.PushAndPull := by
  intro s r
  have copied : StoresMemory s s.sp → ∃ t u, exec .pshA s = .next t ∧ exec .pulB t = .next u ∧
      u.b = s.a ∧ u.a = s.a ∧ u.sp = s.sp ∧ u.ccr = s.ccr := fun h =>
    ⟨_, _, rfl, rfl, acc_pullAcc_pushAcc .b .a h, by simp [pullAcc, pushAcc],
      pullAcc_pushAcc_sp_ccr .b .a s⟩
  cases r
  · refine ⟨⟨_, rfl, pushAcc_eq .a s, pushAcc_stores .a s⟩,
      ⟨_, _, rfl, pullAcc_reads .a s, rfl, ?_, pullAcc_stores .a s, ?_⟩, fun h =>
      ⟨⟨_, _, rfl, rfl, acc_pullAcc_pushAcc .a .a h, pullAcc_pushAcc_sp_ccr .a .a s⟩, copied h⟩⟩
    · simp [pullAcc]
    · dsimp only; rw [pullAcc_a_eq]
  · refine ⟨⟨_, rfl, pushAcc_eq .b s, pushAcc_stores .b s⟩,
      ⟨_, _, rfl, pullAcc_reads .b s, rfl, ?_, pullAcc_stores .b s, ?_⟩, fun h =>
      ⟨⟨_, _, rfl, rfl, acc_pullAcc_pushAcc .b .b h, pullAcc_pushAcc_sp_ccr .b .b s⟩, copied h⟩⟩
    · simp [pullAcc]
    · dsimp only; rw [pullAcc_b_eq]

/-! ## Return from an interrupt (R230, R281) -/

namespace State

/-- The state after `n` pulls. -/
def pulled (s : State) : Nat → State
  | 0 => s
  | n + 1 => (s.pulled n).pull8

/-- The byte of the pull after `n` pulls. -/
def pulledByte (s : State) (n : Nat) : Byte := (s.pulled n).pullData

theorem pulled_sp (s : State) (n : Nat) : (s.pulled n).sp = s.sp + BitVec.ofNat 16 n := by
  induction n with
  | zero => simp [pulled]
  | succ n ih => rw [pulled, pull8_sp, ih, add_assoc]; simp [BitVec.ofNat_add]

/-- The read cycles of `n` pulls. -/
theorem pulled_runs (s : State) (n : Nat) : ∃ rows, s.bus.Runs rows (s.pulled n).bus := by
  induction n with
  | zero => exact ⟨_, .refl⟩
  | succ n ih =>
    obtain ⟨rows, h⟩ := ih
    exact ⟨_, h.trans (pull8_runs _)⟩

/-- RTI pulls the condition codes, B, A, X and PC, in this order (R230). -/
theorem returnFromInterrupt_eq (s : State) :
    let p := s.idle s.sp
    s.returnFromInterrupt = { s with
      a := p.pulledByte 2, b := p.pulledByte 1
      x := joinBytes (p.pulledByte 3) (p.pulledByte 4), sp := s.sp + 7
      pc := joinBytes (p.pulledByte 5) (p.pulledByte 6), ccr := Ccr.ofByte (p.pulledByte 0)
      irqInhibit := s.irqInhibit ||
        (s.ccr.i && !(Ccr.ofByte (p.pulledByte 0)).i && Config.rtiIClearDelayed)
      bus := (p.pulled 7).bus } := by
  apply eq_of_fields <;>
    simp [returnFromInterrupt, pulledByte, pulled, pullWord, pullWordData, add_assoc]

end State

/-- Pulls after other cycles: the bytes above SP, upwards. -/
theorem Reads.pulled {s t : State} {rows : List Row} (h : Reads [] s t)
    (k : s.bus.Runs rows t.bus) (n : Nat) :
    Reads ((List.range n).map fun j => (t.sp + BitVec.ofNat 16 (j + 1), t.pulledByte j)) s
      (t.pulled n) := by
  induction n with
  | zero => exact h
  | succ n ih =>
    obtain ⟨more, kn⟩ := t.pulled_runs n
    have step := ih.pull8 (k.trans kn)
    rw [State.pulled_sp, add_assoc] at step
    rw [List.range_succ, List.map_append]
    simpa [BitVec.ofNat_add] using! step

/-- Settles O27: the seven reads are the seven pulls of `returnFromInterrupt_eq`. -/
theorem returnFromInterrupt : Obligations.ReturnFromInterrupt := by
  intro s
  have runs := s.dummyRead_runs.trans (s.dummyRead.idle_runs s.sp)
  have reads := (Reads.nil_of_runs runs).pulled runs 7
  have stores : Stores [] s s.dummyRead.returnFromInterrupt :=
    Stores.nil_of_runs (s.dummyRead_runs.trans (State.returnFromInterrupt_runs _)) rfl
  have eq := s.dummyRead.returnFromInterrupt_eq
  refine ⟨s.dummyRead.returnFromInterrupt, _, _, _, _, _, _, _, rfl, reads.congr rfl ?_, ?_⟩
  · rw [eq]; rfl
  · rw [eq] at stores ⊢
    exact ⟨Ccr.toByte_ofByte _, rfl, rfl, rfl, rfl, rfl, by simp [and_assoc], rfl, stores⟩

end Sys2Proof.Machine
end

section
/-! PROOFS. H feeds nothing but DAA and the condition code byte (R18). -/

namespace Sys2Proof

open Machine

/-- The flags with another H. -/
def Machine.Ccr.withH (f : Ccr) (h : Bool) : Ccr := { f with h := h }

namespace Machine.State

/-- The state with another H. -/
def withH (s : State) (h : Bool) : State := s.setCcr (s.ccr.withH h)

@[simp] theorem withH_x (s : State) (h : Bool) : (s.withH h).x = s.x := rfl
@[simp] theorem withH_sp (s : State) (h : Bool) : (s.withH h).sp = s.sp := rfl
@[simp] theorem withH_pc (s : State) (h : Bool) : (s.withH h).pc = s.pc := rfl
@[simp] theorem withH_ccr (s : State) (h : Bool) : (s.withH h).ccr = s.ccr.withH h := rfl
@[simp] theorem withH_bus (s : State) (h : Bool) : (s.withH h).bus = s.bus := rfl
@[simp] theorem acc_withH (r : Acc) (s : State) (h : Bool) : (s.withH h).acc r = s.acc r := by
  cases r <;> rfl

/-- Flags that take H over are set alike. -/
@[simp] theorem setCcr_withH (s : State) (h : Bool) (f : Ccr) :
    (s.withH h).setCcr (f.withH h) = (s.setCcr f).withH h := rfl

/-! Setters and bus cycles neither read nor write H. -/

@[simp] theorem setPc_withH (s : State) (h : Bool) (v : Word) :
    (s.withH h).setPc v = (s.setPc v).withH h := rfl
@[simp] theorem setX_withH (s : State) (h : Bool) (v : Word) :
    (s.withH h).setX v = (s.setX v).withH h := rfl
@[simp] theorem setSp_withH (s : State) (h : Bool) (v : Word) :
    (s.withH h).setSp v = (s.setSp v).withH h := rfl
@[simp] theorem setBus_withH (s : State) (h : Bool) (b : Bus) :
    (s.withH h).setBus b = (s.setBus b).withH h := rfl
@[simp] theorem setAcc_withH (r : Acc) (s : State) (h : Bool) (v : Byte) :
    (s.withH h).setAcc r v = (s.setAcc r v).withH h := by cases r <;> rfl
@[simp] theorem readData_withH (s : State) (h : Bool) (addr : Word) :
    (s.withH h).readData addr = s.readData addr := rfl
@[simp] theorem readCycle_withH (s : State) (h : Bool) (addr : Word) :
    (s.withH h).readCycle addr = (s.readCycle addr).withH h := rfl
@[simp] theorem dummyRead_withH (s : State) (h : Bool) :
    (s.withH h).dummyRead = s.dummyRead.withH h := rfl
@[simp] theorem idle_withH (s : State) (h : Bool) (addr : Word) :
    (s.withH h).idle addr = (s.idle addr).withH h := rfl
@[simp] theorem writeByte_withH (s : State) (h : Bool) (addr : Word) (v : Byte) :
    (s.withH h).writeByte addr v = (s.writeByte addr v).withH h := rfl
@[simp] theorem writeWord_withH (s : State) (h : Bool) (addr v : Word) :
    (s.withH h).writeWord addr v = (s.writeWord addr v).withH h := rfl
@[simp] theorem push8_withH (s : State) (h : Bool) (v : Byte) :
    (s.withH h).push8 v = (s.push8 v).withH h := rfl
@[simp] theorem pushWord_withH (s : State) (h : Bool) (v : Word) :
    (s.withH h).pushWord v = (s.pushWord v).withH h := rfl
@[simp] theorem pullData_withH (s : State) (h : Bool) : (s.withH h).pullData = s.pullData := rfl
@[simp] theorem pull8_withH (s : State) (h : Bool) : (s.withH h).pull8 = s.pull8.withH h := rfl

end Machine.State

@[simp] theorem Mem.ea_withH (m : Mem) (s : State) (h : Bool) : m.ea (s.withH h) = m.ea s := by
  cases m <;> rfl
@[simp] theorem Mem.address_withH (m : Mem) (s : State) (h : Bool) :
    m.address (s.withH h) = (m.address s).withH h := by cases m <;> rfl
@[simp] theorem Mem.value_withH (m : Mem) (s : State) (h : Bool) :
    m.value (s.withH h) = m.value s := by simp [Mem.value]
@[simp] theorem Mem.load_withH (m : Mem) (s : State) (h : Bool) :
    m.load (s.withH h) = (m.load s).withH h := by simp [Mem.load]
@[simp] theorem Src8.value_withH (m : Src8) (s : State) (h : Bool) :
    m.value (s.withH h) = m.value s := by cases m <;> simp [Src8.value]
@[simp] theorem Src8.access_withH (m : Src8) (s : State) (h : Bool) :
    m.access (s.withH h) = (m.access s).withH h := by cases m <;> simp [Src8.access]
@[simp] theorem Src16.value_withH (m : Src16) (s : State) (h : Bool) :
    m.value (s.withH h) = m.value s := by cases m <;> simp [Src16.value, State.readWord]
@[simp] theorem Src16.access_withH (m : Src16) (s : State) (h : Bool) :
    m.access (s.withH h) = (m.access s).withH h := by
  cases m <;> simp [Src16.access, State.readWordCycles]

namespace Machine

@[simp] theorem logicFlags_withH (r : Byte) (f : Ccr) (h : Bool) :
    logicFlags r (f.withH h) = (logicFlags r f).withH h := rfl
@[simp] theorem tstFlags_withH (r : Byte) (f : Ccr) (h : Bool) :
    tstFlags r (f.withH h) = (tstFlags r f).withH h := rfl
@[simp] theorem wordFlags_withH (v : Word) (f : Ccr) (h : Bool) :
    wordFlags v (f.withH h) = (wordFlags v f).withH h := rfl
@[simp] theorem cpxFlags_withH (x m : Word) (f : Ccr) (h : Bool) :
    cpxFlags x m (f.withH h) = (cpxFlags x m f).withH h := rfl

/-! ## Shapes on two states that differ in H -/

/-- The second state is the first with some H. -/
def EqButH (s t : State) : Prop := ∃ h, t = s.withH h

/-- The result of a kernel does not depend on H, and of the flags it gives only H does. -/
def IgnoresH {α : Type} (k : Ccr → α × Ccr) : Prop :=
  ∀ (f : Ccr) (h : Bool), (k (f.withH h)).1 = (k f).1 ∧ ∃ h', (k (f.withH h)).2 = (k f).2.withH h'

/-- The same of a computation of flags alone. -/
def FlagsIgnoreH (k : Ccr → Ccr) : Prop :=
  ∀ (f : Ccr) (h : Bool), ∃ h', k (f.withH h) = (k f).withH h'

theorem setCcr_eqButH (s : State) (h : Bool) {f g : Ccr} (hg : ∃ h', g = f.withH h') :
    EqButH (s.setCcr f) ((s.withH h).setCcr g) := by
  obtain ⟨h', rfl⟩ := hg
  exact ⟨h', rfl⟩

section Shapes

variable (s : State) (h : Bool)

theorem accOp_eqButH {r : Acc} {k : Byte → Ccr → Byte × Ccr} (hk : ∀ a, IgnoresH (k a)) :
    EqButH (accOp r k s) (accOp r k (s.withH h)) := by
  obtain ⟨value, flags⟩ := hk (s.acc r) s.ccr h
  simpa [accOp, value] using setCcr_eqButH _ h flags

theorem binaryOp_eqButH {r : Acc} {m : Src8} {k : Byte → Byte → Ccr → Byte × Ccr}
    (hk : ∀ a v, IgnoresH (k a v)) : EqButH (binaryOp r m k s) (binaryOp r m k (s.withH h)) := by
  obtain ⟨value, flags⟩ := hk (s.acc r) (m.value s) s.ccr h
  simpa [binaryOp, value] using setCcr_eqButH _ h flags

theorem compareOp_eqButH {r : Acc} {m : Src8} {k : Byte → Byte → Ccr → Ccr}
    (hk : ∀ a v, FlagsIgnoreH (k a v)) :
    EqButH (compareOp r m k s) (compareOp r m k (s.withH h)) := by
  simpa [compareOp] using setCcr_eqButH _ h (hk (s.acc r) (m.value s) s.ccr h)

theorem memOp_eqButH {m : IndExt} {k : Byte → Ccr → Byte × Ccr} (hk : ∀ a, IgnoresH (k a)) :
    EqButH (memOp m k s) (memOp m k (s.withH h)) := by
  obtain ⟨value, flags⟩ := hk (m.toMem.value s) s.ccr h
  simpa [memOp, value] using setCcr_eqButH _ h flags

theorem accTest_eqButH (r : Acc) : EqButH (accTest r s) (accTest r (s.withH h)) :=
  ⟨h, by simp [accTest]⟩

theorem memTest_eqButH (m : IndExt) : EqButH (memTest m s) (memTest m (s.withH h)) :=
  ⟨h, by simp [memTest]⟩

theorem flagOp_eqButH {k : Ccr → Ccr} (hk : FlagsIgnoreH k) :
    EqButH (flagOp k s) (flagOp k (s.withH h)) := by
  simpa [flagOp] using setCcr_eqButH s.dummyRead h (hk s.ccr h)

theorem storeAcc_eqButH (r : Acc) (m : Mem) : EqButH (storeAcc r m s) (storeAcc r m (s.withH h)) :=
  ⟨h, by simp [storeAcc]⟩

theorem storeWord_eqButH (v : Word) (m : Mem) :
    EqButH (storeWord v m s) (storeWord v m (s.withH h)) :=
  ⟨h, by simp [storeWord]⟩

theorem pushAcc_eqButH (r : Acc) : EqButH (pushAcc r s) (pushAcc r (s.withH h)) :=
  ⟨h, by simp [pushAcc]⟩

theorem pullAcc_eqButH (r : Acc) : EqButH (pullAcc r s) (pullAcc r (s.withH h)) :=
  ⟨h, by simp [pullAcc]⟩

theorem indexOp_eqButH (old new : Word) :
    EqButH (indexOp old new s) (indexOp old new (s.withH h)) := ⟨h, by simp [indexOp]⟩

theorem stackPointerOp_eqButH (old new : Word) :
    EqButH (stackPointerOp old new s) (stackPointerOp old new (s.withH h)) :=
  ⟨h, by simp [stackPointerOp]⟩

theorem branchIf_eqButH (c : Bool) (rel : Byte) :
    EqButH (branchIf c rel s) (branchIf c rel (s.withH h)) :=
  ⟨h, by cases c <;> simp [branchIf, branchTarget]⟩

end Shapes

/-! ## The instructions that are of no shared shape -/

theorem execJsr_withH {m : IndExt} {s t : State} (h : Bool) (k : execJsr m s = .next t) :
    execJsr m (s.withH h) = .next (t.withH h) := by
  cases m with
  | ind o => cases k; simp [execJsr]
  | ext a =>
    simp only [execJsr] at k ⊢
    split at k
    · next hc => cases k; exact if_pos hc
    · next hc => cases k; exact if_neg hc

theorem State.pulled_withH (s : State) (h : Bool) (n : Nat) :
    (s.withH h).pulled n = (s.pulled n).withH h := by
  induction n with
  | zero => rfl
  | succ n ih => simp [pulled, ih]

/-- RTI loads all flags from the stack, H among them. -/
theorem State.returnFromInterrupt_withH (s : State) (h : Bool) :
    (s.withH h).returnFromInterrupt = s.returnFromInterrupt := by
  rw [returnFromInterrupt_eq, returnFromInterrupt_eq]
  simp only [idle_withH, withH_sp, withH_bus, pulledByte, pulled_withH, pullData_withH]
  rfl

/-- Every instruction but DAA, TPA, SWI and WAI does the same from a state with another H. -/
theorem exec_eqButH {i : Instr} {s t : State} (h : Bool) (daa : i ≠ .daa) (tpa : i ≠ .tpa)
    (swi : i ≠ .swi) (wai : i ≠ .wai) (k : exec i s = .next t) :
    ∃ u, exec i (s.withH h) = .next u ∧ EqButH t u := by
  cases i
  case daa | tpa | swi | wai => contradiction
  case unassigned => cases k
  case jsr => exact ⟨_, execJsr_withH h k, h, rfl⟩
  case rti => cases k; exact ⟨_, rfl, _, State.returnFromInterrupt_withH s.dummyRead h⟩
  case nop | rts | bsr => cases k; exact ⟨_, rfl, h, rfl⟩
  case jmp => cases k; exact ⟨_, rfl, h, by simp⟩
  case tap | cli => cases k; exact ⟨_, rfl, _, rfl⟩
  case ldx | lds | cpx => cases k; exact ⟨_, rfl, h, by simp⟩
  case inx | dex => cases k; exact ⟨_, rfl, h, rfl⟩
  case tsx => cases k; exact ⟨_, rfl, indexOp_eqButH s h _ _⟩
  case ins | des | txs => cases k; exact ⟨_, rfl, stackPointerOp_eqButH s h _ _⟩
  case pulA | pulB => cases k; exact ⟨_, rfl, pullAcc_eqButH s h _⟩
  case pshA | pshB => cases k; exact ⟨_, rfl, pushAcc_eqButH s h _⟩
  case tst => cases k; exact ⟨_, rfl, memTest_eqButH s h _⟩
  case tstA | tstB => cases k; exact ⟨_, rfl, accTest_eqButH s h _⟩
  case staA | staB => cases k; exact ⟨_, rfl, storeAcc_eqButH s h _ _⟩
  case sts | stx => cases k; exact ⟨_, rfl, storeWord_eqButH s h _ _⟩
  case cmpA | cmpB | bitA | bitB =>
    cases k; exact ⟨_, rfl, compareOp_eqButH s h fun _ _ _ _ => ⟨_, rfl⟩⟩
  case cba | clv | sev | clc | sec | sei =>
    cases k; exact ⟨_, rfl, flagOp_eqButH s h fun _ _ => ⟨_, rfl⟩⟩
  case sba | aba | negA | decA | incA | negB | decB | incB | comA | lsrA | rorA | asrA | aslA |
    rolA | clrA | comB | lsrB | rorB | asrB | aslB | rolB | clrB | tab | tba =>
    cases k; exact ⟨_, rfl, accOp_eqButH s h fun _ _ _ => ⟨rfl, _, rfl⟩⟩
  case neg | dec | inc | com | lsr | ror | asr | asl | rol | clr =>
    cases k; exact ⟨_, rfl, memOp_eqButH s h fun _ _ _ => ⟨rfl, _, rfl⟩⟩
  case subA | sbcA | adcA | addA | subB | sbcB | adcB | addB | andA | eorA | oraA | andB | eorB
    | oraB | ldaA | ldaB =>
    cases k; exact ⟨_, rfl, binaryOp_eqButH s h fun _ _ _ _ => ⟨rfl, _, rfl⟩⟩
  case bra | bhi | bls | bcc | bcs | bne | beq | bvc | bvs | bpl | bmi | bge | blt | bgt | ble =>
    cases k; exact ⟨_, rfl, branchIf_eqButH s h _ _⟩

/-- Settles O42: the second state is the first with its own H. -/
theorem halfCarryFeedsDecimalAdjustOnly : Obligations.HalfCarryFeedsDecimalAdjustOnly := by
  intro i s t h daa tpa swi wai k
  obtain ⟨u, hu, h', rfl⟩ := exec_eqButH h daa tpa swi wai k
  exact ⟨_, hu, rfl⟩

end Machine

end Sys2Proof
end

section
/-! PROOFS. The interrupt window of CLI, NOP, SEI (R331). -/

namespace Sys2Proof.Machine

open Sys2Proof

/-- With no interference to come, a read leaves memory as it is. -/
theorem Bus.read_mem_of_no_inputs {b : Bus} (h : b.inputs = []) (addr : Word) :
    (b.read addr).mem = b.mem := by
  rw [Bus.read_mem, Bus.withOthers_mem, Bus.input, h]; rfl

/-- A one-byte opcode is fetched in one cycle (R80, R82). -/
theorem State.fetchInstr_of_inherent {s : State} {i : Instr}
    (h : opcodeCell (s.readData s.pc) = .inh i) : s.fetchInstr = (i, s.fetch8) := by
  simp [fetchInstr, decodeBytes, h, MapCell.operandBytes, MapCell.build]

/-- The two read cycles of a one-byte, two-cycle instruction (R51, R103). -/
theorem State.fetch8_dummyRead_bus (s : State) :
    s.fetch8.dummyRead.bus = (s.bus.read s.pc).read (s.pc + 1) := rfl

/-- A running machine with IRQ held low, no NMI, and nobody else at work. -/
structure IrqHeldLow (s : State) : Prop where
  env : s.env = []
  run : s.run = .running
  nmi : s.nmiPending = false
  lines : s.lines = { reset := .high, halt := .high, irq := .low, nmi := .high, tsc := .low }

namespace IrqHeldLow

variable {s : State}

theorem openBoundary (q : IrqHeldLow s) : OpenBoundary s := by
  simp [OpenBoundary, State.sample_of_env_nil q.env, q.lines]

theorem no_nmi (q : IrqHeldLow s) : ¬NmiRequested s := by
  simp [NmiRequested, State.sample_of_env_nil q.env, q.nmi, q.lines]

theorem irqRequested (q : IrqHeldLow s) : IrqRequested s :=
  .inl (by simp [State.sample_of_env_nil q.env, q.lines])

/-- IRQ is passed over while it is masked or delayed. -/
theorem action_of_masked (q : IrqHeldLow s) (h : s.ccr.i = true ∨ s.irqInhibit = true) :
    s.sampled.action = .execute :=
  State.action_of_no_request q.openBoundary (.inl q.run) q.no_nmi fun _ => h

/-- The boundary leaves memory alone, and nothing interferes in the step after it. -/
theorem sampled_bus (q : IrqHeldLow s) : s.sampled.bus = { s.bus with inputs := [], record := [] } := by
  have released : s.busReleased = false := by simp [State.busReleased, q.run, q.lines]
  rw [State.sampled_bus, State.afterDma_of_not_released released, State.sample_of_env_nil q.env]

end IrqHeldLow

/-- After a one-byte instruction that leaves the stack alone: PC moved on, memory and platform as they
were, IRQ still low. -/
structure MovesOn (s t : State) : Prop where
  held : IrqHeldLow t
  pc : t.pc = s.pc + 1
  sp : t.sp = s.sp
  mem : t.mem = s.mem
  platform : t.bus.platform = s.bus.platform

/-- A step at a one-byte instruction that changes no more than the flags and the delay of IRQ, where IRQ
is masked or delayed. -/
theorem step_of_flagInstr {s : State} {i : Instr} {g : Ccr → Ccr} {d : Ccr → Bool} (q : IrqHeldLow s)
    (hm : s.ccr.i = true ∨ s.irqInhibit = true) (hk : InMemory s s.pc)
    (hop : opcodeCell (s.mem.read s.pc) = .inh i)
    (hexec : ∀ f, exec i f = .next { f with
      ccr := g f.ccr, irqInhibit := f.irqInhibit || d f.ccr, bus := f.dummyRead.bus }) :
    ∃ t, step s = .next t ∧ MovesOn s t ∧ t.ccr = g s.ccr ∧ t.irqInhibit = d s.ccr := by
  have bus : s.sampled.readyToExecute.bus = { s.bus with inputs := [], record := [] } := q.sampled_bus
  have opcode : s.sampled.readyToExecute.readData s.pc = s.mem.read s.pc := by
    rw [State.readData_of_memory ⟨by rw [InMemory, bus]; exact hk, by rw [bus]; exact untouched_nil _⟩]
    rw [State.mem, bus]
  have fetch := State.fetchInstr_of_inherent (s := s.sampled.readyToExecute) (i := i)
    (by rw [← hop, ← opcode]; rfl)
  have hstep : step s = exec i s.sampled.readyToExecute.fetch8 := by
    rw [State.step_of_no_reset q.openBoundary.1, q.action_of_masked hm]
    show exec s.sampled.readyToExecute.fetchInstr.1 s.sampled.readyToExecute.fetchInstr.2 = _
    rw [fetch]
  have executed := hexec s.sampled.readyToExecute.fetch8
  rw [← hstep] at executed
  refine ⟨_, executed, ⟨⟨?env, ?run, ?nmi, ?lines⟩, ?pc, ?sp, ?mem, ?platform⟩, ?ccr, ?delay⟩
  case env => exact congrArg List.tail q.env
  case nmi =>
    exact Bool.eq_false_iff.2 (mt (State.nmiLatched_iff q.openBoundary.2.2.1
      (by rw [q.run]; exact nofun)).1 q.no_nmi)
  case lines => exact (congrArg Sample.lines (State.sample_of_env_nil q.env)).trans q.lines
  case mem =>
    have noInputs : s.sampled.readyToExecute.bus.inputs = [] := by rw [bus]
    show s.sampled.readyToExecute.fetch8.dummyRead.bus.mem = _
    rw [State.fetch8_dummyRead_bus, Bus.read_mem_of_no_inputs (by rw [Bus.read_inputs, noInputs]; rfl),
      Bus.read_mem_of_no_inputs noInputs, bus]
  case platform =>
    show s.sampled.readyToExecute.fetch8.dummyRead.bus.platform = _
    rw [State.fetch8_dummyRead_bus, Bus.read_platform, Bus.read_platform, bus]
  case run | pc | sp | ccr | delay => simp [State.readyToExecute_eq]

theorem exec_cli_eq (f : State) : exec .cli f = .next { f with
    ccr := { f.ccr with i := false }, irqInhibit := f.irqInhibit || f.ccr.i
    bus := f.dummyRead.bus } := by
  rw [exec, execCli, dummyRead_loadCcrDelayed_eq, Bool.not_false, Bool.and_true]

theorem exec_nop_eq (f : State) : exec .nop f = .next { f with
    ccr := f.ccr, irqInhibit := f.irqInhibit || false, bus := f.dummyRead.bus } := by
  rw [Bool.or_false]; rfl

theorem exec_sei_eq (f : State) : exec .sei f = .next { f with
    ccr := { f.ccr with i := true }, irqInhibit := f.irqInhibit || false
    bus := f.dummyRead.bus } := by
  rw [Bool.or_false]; rfl

/-- Settles O47: CLI delays IRQ past the next instruction. After a NOP it is taken; a SEI has masked it
again. -/
theorem interruptWindow : Obligations.InterruptWindow := by
  intro s env run nmi masked inhibit lines mem0 mem1 cli
  obtain ⟨t, hstep, on, ccr, delayed⟩ := step_of_flagInstr (i := .cli)
    (g := fun f => { f with i := false }) (d := Ccr.i) ⟨env, run, nmi, lines⟩ (.inl masked) mem0
    (by rw [cli]; rfl) exec_cli_eq
  have hd : t.irqInhibit = true := delayed.trans masked
  have mem1' : InMemory t t.pc := by rw [InMemory, on.platform, on.pc]; exact mem1
  have pc2 : t.pc + 1 = s.pc + 2 := by rw [on.pc, State.add_one_add_one]
  constructor
  · intro nop
    obtain ⟨r, rstep, ron, rccr, rdelay⟩ := step_of_flagInstr (i := .nop) (g := id)
      (d := fun _ => false) on.held (.inr hd) mem1' (by rw [on.mem, on.pc, nop]; rfl)
      exec_nop_eq
    have unmasked : r.ccr.i = false := by rw [rccr, ccr]; rfl
    obtain ⟨u, ustep, stacked, loads, uccr, -⟩ := interruptRequestSequence r ron.held.openBoundary
      (.inl ron.held.run) ron.held.no_nmi ron.held.irqRequested unmasked rdelay
    have rpc : r.pc = s.pc + 2 := ron.pc.trans pc2
    refine ⟨r, u, by simp [steps, hstep, rstep], rpc, rccr.trans ccr, ron.sp.trans on.sp,
      ron.mem.trans on.mem, ustep, rpc ▸ stacked, loads, ?_⟩
    rw [uccr, rccr, ccr, ← masked]; rfl
  · intro sei
    obtain ⟨u, ustep, uon, uccr, -⟩ := step_of_flagInstr (i := .sei)
      (g := fun f => { f with i := true }) (d := fun _ => false) on.held (.inr hd) mem1'
      (by rw [on.mem, on.pc, sei]; rfl) exec_sei_eq
    have uccr' : u.ccr = s.ccr := by rw [uccr, ccr, ← masked]
    exact ⟨u, by simp [steps, hstep, ustep], uon.pc.trans pc2, uon.sp.trans on.sp, uccr',
      uon.mem.trans on.mem, uon.held.action_of_masked (.inl (uccr' ▸ masked))⟩

end Sys2Proof.Machine
end

section
/-! PROOFS. Memory and the bus: one access, the canonical form, memory as the replay of the bus record, and
other masters. -/

namespace Sys2Proof.Machine

open Sys2Proof

/-! ## The canonical form and the replay of the record (R40, R69, R70) -/

/-- Settles O58: an action runs cycles only, and a step cut short replays events. -/
theorem stepKeepsMemoryCanonical : Obligations.StepKeepsMemoryCanonical := by
  intro s t wf h
  have sampled : s.sampled.mem.wf = true := State.afterDma_wf wf
  rcases State.step_cases h with ⟨-, hu⟩ | ⟨k, u, -, -, rfl⟩ | ⟨k, -, -, rfl⟩
  · obtain ⟨rows, runs⟩ := State.perform_runs hu
    exact runs.mem_wf sampled
  · exact State.cutByReset_wf k u sampled
  · exact State.cutByReset_wf k _ sampled

/-- Settles O38: an instruction runs cycles only, and these are all that cycles do to the bus. -/
theorem memoryIsReplayOfBusWrites : Obligations.MemoryIsReplayOfBusWrites := by
  intro i s t h
  obtain ⟨rows, runs⟩ := exec_runs h
  obtain ⟨new, added⟩ := runs.added
  refine ⟨new, added.record, added.mem, added.platform, fun _ _ _ => added.reads.at_cycle, ?_⟩
  rw [← added.fits.length_eq]
  exact added.others

/-! ## One access (R44, R53, R73, R74) -/

/-- A device gets its own answer onto the bus, where the environment gives one. -/
theorem Bus.answer_of_device {b : Bus} {addr : Word} {w : Byte} (h : kindAt b.platform addr = .device)
    (hw : b.input.answer = some w) : b.answer addr = w := by
  simp [answer, h, hw]

/-- Settles O60: a write is the store of the byte on the data bus, after the other masters' writes. -/
theorem busAccessByKind : Obligations.BusAccessByKind := by
  intro s addr v
  refine ⟨rfl, rfl, Bus.answer_of_memory, fun h _ => Bus.answer_of_device h, rfl, ?_, ?_,
    fun other h => Bus.read_of_untouched h⟩
  · exact Memory.store_of_not_ram _ _
  · intro ram other
    have stored := s.bus.withOthers.mem.read_store s.bus.platform addr other (s.bus.input.dbe.getD v)
    simpa only [ram, and_true, eq_comm] using! stored

/-! ## TSC and other masters at a boundary (R72, R73, R292) -/

/-- TSC stops a machine that RESET does not hold. -/
theorem State.action_of_tsc {s : State} (hr : s.lines.reset = .high) (ht : s.lines.tsc = .high) :
    s.action = .frozen := by simp [action, hr, ht]

/-- Under TSC an IRQ is latched only where HALT holds the machine (R30, log 39). -/
theorem State.freeze_irqLatchedInHalt_iff (s : State) : s.freeze.irqLatchedInHalt = true ↔
    s.irqLatchedInHalt = true ∨ (s.lines.halt = .low ∧ s.lines.irq = .low ∧
      (s.run = .halted ∨ s.run = .waiting)) := by
  rw [freeze_eq]
  simp [and_comm, and_assoc]

/-- Settles O53: the step is `freeze`, on the state that the sample leaves. -/
theorem threeStateFreezes : Obligations.ThreeStateFreezes := by
  intro s tsc reset noReset
  refine ⟨s.sampled.freeze, ?_, ?_, ?_, ?_⟩
  · rw [State.step_of_no_reset noReset, State.action_of_tsc (s := s.sampled) reset tsc]; rfl
  · rw [State.freeze_eq]; rfl
  · rw [State.freeze_eq]; exact State.nmiLatched_iff reset
  · exact s.sampled.freeze_irqLatchedInHalt_iff

namespace State

/-- The bus is held just where the machine neither waits nor is halted and TSC is low. -/
theorem busReleased_iff (s : State) :
    s.busReleased = true ↔ s.run = .waiting ∨ s.run = .halted ∨ s.lines.tsc = .high := by
  simp [busReleased, or_assoc]

/-- Where the bus is released, other masters' writes land in order (R72, R73). -/
theorem afterDma_of_released {s : State} (h : s.busReleased = true) :
    s.afterDma = s.mem.storeAll s.bus.platform s.sample.dma := if_pos h

theorem sample_of_env_cons {s : State} {p : Sample} {rest : List Sample} (h : s.env = p :: rest) :
    s.sample = p := by simp [sample, h]

/-- While the MPU has the bus, a step starts from the same sampled state whatever other masters try to
write. -/
theorem sampled_of_other_dma {s : State} {p : Sample} {rest : List Sample} (h : s.env = p :: rest)
    (held : s.busReleased = false) (dma : List (Word × Byte)) :
    (s.setEnv ({ p with dma := dma } :: rest)).sampled = s.sampled := by
  have sample := sample_of_env_cons h
  have held' : (s.setEnv ({ p with dma := dma } :: rest)).busReleased = false := held
  apply eq_of_fields <;> try rfl
  case lines => exact (congrArg Sample.lines sample).symm
  case env => simp [h]
  case nmi =>
    rw [sampled_nmiPending, sampled_nmiPending, nmiLatched, nmiLatched, nmiEdge, nmiEdge, sample]
    rfl
  case bus =>
    rw [sampled_bus, sampled_bus, afterDma_of_not_released held, afterDma_of_not_released held', sample]
    rfl

end State

/-- Settles O54: with the bus held, the step starts from the same sampled state; released, the writes are
those of `afterDma`. -/
theorem otherMastersNeedReleasedBus : Obligations.OtherMastersNeedReleasedBus := by
  intro s p rest env
  have sample := State.sample_of_env_cons env
  refine ⟨fun waiting halted tsc dma => ?_, fun released => ?_⟩
  · have held : s.busReleased = false := by simp [State.busReleased, waiting, halted, tsc]
    show (s.setEnv ({ p with dma := dma } :: rest)).atBoundary exec = s.atBoundary exec
    rw [State.atBoundary, State.atBoundary, State.sampled_of_other_dma env held, sample]
    rfl
  · rw [State.afterDma_of_released (s.busReleased_iff.2 released), sample]

end Sys2Proof.Machine
end

section
/-! PROOFS. The bus cycles of every instruction, row for row of the cycle tables (R54 to R67). -/

namespace Sys2Proof

open Machine

/-! ## The cycles of an instruction after its fetch -/

/-- Read, a VMA = 0 cycle, write back: the kernel's result on the byte read (R60, R64). -/
def Machine.memOpRows (m : IndExt) (k : Byte → Ccr → Byte × Ccr) (s : State) : List Row :=
  m.toMem.addressRows s ++ [.read (m.toMem.ea s)] ++ [.none (m.toMem.ea s)] ++
    [.write (m.toMem.ea s) (k (m.toMem.value s) s.ccr).1]

/-- A VMA = 0 cycle and the write of an accumulator (R56, R58, R63). -/
def Machine.storeAccRows (r : Acc) (m : Mem) (s : State) : List Row :=
  m.addressRows s ++ [.none (m.ea s)] ++ [.write (m.ea s) (s.acc r)]

/-- The same of a 16-bit register, the high byte first. -/
def Machine.storeWordRows (w : Word) (m : Mem) (s : State) : List Row :=
  m.addressRows s ++ [.none (m.ea s)] ++ [.write (m.ea s) (hi8 w), .write (m.ea s + 1) (lo8 w)]

/-- The rows of an instruction that has been fetched, from the state after the fetch (R54 to R67). An
unassigned opcode has none. -/
def Instr.rows (s : State) : Instr → List Row
  | .aba | .daa | .sec | .sei | .sev | .cba | .tab | .clc | .tap | .cli | .nop | .tba | .tpa | .clv
  | .sba | .aslA | .decA | .asrA | .incA | .lsrA | .negA | .clrA | .rolA | .rorA | .tstA | .comA
  | .aslB | .decB | .asrB | .incB | .lsrB | .negB | .clrB | .rolB | .rorB | .tstB | .comB =>
    [.read s.pc]
  | .inx => [.read s.pc, .none s.x, .none (s.x + 1)]
  | .dex | .txs => [.read s.pc, .none s.x, .none (s.x - 1)]
  | .ins | .tsx => [.read s.pc, .none s.sp, .none (s.sp + 1)]
  | .des => [.read s.pc, .none s.sp, .none (s.sp - 1)]
  | .pshA => [.read s.pc, .write s.sp s.a, .shows (s.sp - 1) s.a]
  | .pshB => [.read s.pc, .write s.sp s.b, .shows (s.sp - 1) s.b]
  | .pulA | .pulB => [.read s.pc, .none s.sp, .read (s.sp + 1)]
  | .rts => [.read s.pc, .none s.sp, .read (s.sp + 1), .read (s.sp + 2)]
  | .rti => [.read s.pc, .none s.sp, .read (s.sp + 1), .read (s.sp + 2), .read (s.sp + 3),
      .read (s.sp + 4), .read (s.sp + 5), .read (s.sp + 6), .read (s.sp + 7)]
  | .wai => .read s.pc :: State.stackingRows s.pc s
  | .swi => .read s.pc :: (State.stackingRows s.pc s ++
      [.none (s.sp - 7), .read 0xFFFA, .read 0xFFFB])
  | .bra rel | .bhi rel | .bls rel | .bcc rel | .bcs rel | .bne rel | .beq rel | .bvc rel | .bvs rel
  | .bpl rel | .bmi rel | .bge rel | .blt rel | .bgt rel | .ble rel =>
    [.none s.pc, .none (branchTarget s rel)]
  | .bsr rel => [.none s.pc, .write s.sp (lo8 s.pc), .write (s.sp - 1) (hi8 s.pc), .none (s.sp - 2),
      .none s.pc, .none (branchTarget s rel)]
  | .jsr m => jsrRows s m
  | .jmp m => m.toMem.addressRows s
  | .subA m | .cmpA m | .sbcA m | .andA m | .bitA m | .ldaA m | .eorA m | .adcA m | .oraA m | .addA m
  | .subB m | .cmpB m | .sbcB m | .andB m | .bitB m | .ldaB m | .eorB m | .adcB m | .oraB m
  | .addB m => m.rows s
  | .cpx m | .lds m | .ldx m => m.rows s
  | .staA m => storeAccRows .a m s
  | .staB m => storeAccRows .b m s
  | .sts m => storeWordRows s.sp m s
  | .stx m => storeWordRows s.x m s
  | .neg m => memOpRows m neg8 s
  | .com m => memOpRows m com8 s
  | .lsr m => memOpRows m lsr8 s
  | .ror m => memOpRows m ror8 s
  | .asr m => memOpRows m asr8 s
  | .asl m => memOpRows m asl8 s
  | .rol m => memOpRows m rol8 s
  | .dec m => memOpRows m dec8 s
  | .inc m => memOpRows m inc8 s
  | .clr m => memOpRows m clr8 s
  | .tst m => m.toMem.addressRows s ++ [.read (m.toMem.ea s)] ++ [.none (m.toMem.ea s)] ++
      [.noWrite (m.toMem.ea s)]
  | .unassigned _ => []

namespace Machine

/-- SWI's stacking, its one cycle without an access, and the vector (R66). -/
theorem State.takeInterrupt_swi_runs (s : State) :
    s.bus.Runs (stackingRows s.pc s ++ [.none (s.sp - 7), .read 0xFFFA, .read 0xFFFB])
      (s.takeInterrupt .swi).bus := by
  simpa [gapRows] using! s.takeInterrupt_runs .swi

/-- JSR always gives a next state. -/
theorem execJsr_next (m : IndExt) (s : State) : ∃ t, execJsr m s = .next t := by
  cases m with
  | ind o => exact ⟨_, rfl⟩
  | ext a => simp only [execJsr]; split <;> exact ⟨_, rfl⟩

/-- An assigned instruction gives a next state, after the cycles of its rows. -/
theorem exec_rows {i : Instr} (hi : ∀ op, i ≠ .unassigned op) (s : State) :
    ∃ t, exec i s = .next t ∧ s.bus.Runs (i.rows s) t.bus := by
  cases i
  case unassigned op => exact absurd rfl (hi op)
  case jsr m =>
    obtain ⟨t, ht⟩ := execJsr_next m s
    exact ⟨t, ht, execJsr_runs ht⟩
  case bsr => exact ⟨_, rfl, execBsr_runs rfl⟩
  case rts => exact ⟨_, rfl, execRts_runs rfl⟩
  case jmp => exact ⟨_, rfl, execJmp_runs rfl⟩
  case cpx m | ldx m | lds m => exact ⟨_, rfl, m.access_runs s⟩
  case nop | tap | tpa | cli => exact ⟨_, rfl, s.dummyRead_runs⟩
  case daa => exact ⟨_, rfl, accOp_runs .a (daa8 · (Config.freeBit s.draws)) s⟩
  case rti => exact ⟨_, rfl, s.dummyRead_runs.trans (State.returnFromInterrupt_runs _)⟩
  case wai => exact ⟨_, rfl, s.dummyRead_runs.trans (State.stackRegisters_runs _)⟩
  case swi => exact ⟨_, rfl, s.dummyRead_runs.trans (State.takeInterrupt_swi_runs _)⟩
  case sba | aba | negA | decA | incA | negB | decB | incB | comA | lsrA | rorA | asrA | aslA |
    rolA | clrA | comB | lsrB | rorB | asrB | aslB | rolB | clrB | tab | tba =>
    exact ⟨_, rfl, accOp_runs _ _ s⟩
  case cba | clv | sev | clc | sec | sei => exact ⟨_, rfl, flagOp_runs _ s⟩
  case neg | dec | inc | com | lsr | ror | asr | asl | rol | clr =>
    exact ⟨_, rfl, memOp_runs _ _ s⟩
  case subA | sbcA | adcA | addA | subB | sbcB | adcB | addB | andA | eorA | oraA | andB | eorB
    | oraB | ldaA | ldaB => exact ⟨_, rfl, binaryOp_runs _ _ _ s⟩
  case cmpA | cmpB | bitA | bitB => exact ⟨_, rfl, compareOp_runs _ _ _ s⟩
  case tstA | tstB => exact ⟨_, rfl, accTest_runs _ s⟩
  case tst => exact ⟨_, rfl, memTest_runs _ s⟩
  case pulA | pulB => exact ⟨_, rfl, pullAcc_runs _ s⟩
  case pshA => exact ⟨_, rfl, pushAcc_runs .a s⟩
  case pshB => exact ⟨_, rfl, pushAcc_runs .b s⟩
  case staA | staB => exact ⟨_, rfl, storeAcc_runs _ _ s⟩
  case inx | dex | tsx => exact ⟨_, rfl, indexOp_runs _ _ s⟩
  case ins | des | txs => exact ⟨_, rfl, stackPointerOp_runs _ _ s⟩
  case sts | stx => exact ⟨_, rfl, storeWord_runs _ _ s⟩
  case bra | bhi | bls | bcc | bcs | bne | beq | bvc | bvs | bpl | bmi | bge | blt | bgt | ble =>
    exact ⟨_, rfl, branchIf_runs _ _ s⟩

/-- Fetching and executing makes the read cycles of the bytes, then the instruction's rows. The state
after the fetch is the one before it, but for PC and the bus. -/
theorem makesCycles_of_rows {i : Instr} {s : State} {rows : List Row}
    (hi : ∀ op, i ≠ .unassigned op)
    (hr : ∀ b, s.fetchInstr.2 = { s with pc := s.pc + BitVec.ofNat 16 i.length, bus := b } →
      i.rows { s with pc := s.pc + BitVec.ofNat 16 i.length, bus := b } = rows) :
    MakesCycles i s (State.fetchRows s.pc i.length ++ rows) := by
  rintro rfl
  obtain ⟨t, ht, runs⟩ := exec_rows hi s.fetchInstr.2
  have fetched := s.fetchInstr_eq
  have executed := hr _ fetched
  rw [← fetched] at executed
  exact ⟨t, ht, .of_runs (executed ▸ s.fetchInstr_runs.trans runs)⟩

section Lengths

variable {i : Instr} {s : State} {rows : List Row}

theorem makesCycles_of_one_byte (hl : i.length = 1) (hi : ∀ op, i ≠ .unassigned op)
    (hr : ∀ b, s.fetchInstr.2 = { s with pc := s.pc + 1, bus := b } →
      i.rows { s with pc := s.pc + 1, bus := b } = rows) :
    MakesCycles i s (.read s.pc :: rows) := by
  have h := makesCycles_of_rows (s := s) (rows := rows) hi (by rw [hl]; exact hr)
  simpa [hl, State.fetchRows] using h

theorem makesCycles_of_two_bytes (hl : i.length = 2) (hi : ∀ op, i ≠ .unassigned op)
    (hr : ∀ b, s.fetchInstr.2 = { s with pc := s.pc + 2, bus := b } →
      i.rows { s with pc := s.pc + 2, bus := b } = rows) :
    MakesCycles i s (.read s.pc :: .read (s.pc + 1) :: rows) := by
  have h := makesCycles_of_rows (s := s) (rows := rows) hi (by rw [hl]; exact hr)
  simpa [hl, State.fetchRows, List.range_succ] using h

theorem makesCycles_of_three_bytes (hl : i.length = 3) (hi : ∀ op, i ≠ .unassigned op)
    (hr : ∀ b, s.fetchInstr.2 = { s with pc := s.pc + 3, bus := b } →
      i.rows { s with pc := s.pc + 3, bus := b } = rows) :
    MakesCycles i s (.read s.pc :: .read (s.pc + 1) :: .read (s.pc + 2) :: rows) := by
  have h := makesCycles_of_rows (s := s) (rows := rows) hi (by rw [hl]; exact hr)
  simpa [hl, State.fetchRows, List.range_succ] using h

end Lengths

/-! ## The cycle tables, form by form -/

/-- Settles O32: the rows of each form in the list are those of the table. -/
theorem immediateAndDirectCycles : Obligations.ImmediateAndDirectCycles := by
  intro s v w
  refine ⟨?src8, ?src16, ?storeAcc, ?storeWord⟩
  case src8 =>
    iterate 20 refine List.forall_mem_cons.2 ⟨⟨makesCycles_of_two_bytes rfl nofun fun _ _ => rfl,
      makesCycles_of_two_bytes rfl nofun fun _ _ => rfl⟩, ?_⟩
    exact List.forall_mem_nil _
  case src16 =>
    iterate 3 refine List.forall_mem_cons.2 ⟨⟨makesCycles_of_three_bytes rfl nofun fun _ _ => rfl,
      makesCycles_of_two_bytes rfl nofun fun _ _ => rfl⟩, ?_⟩
    exact List.forall_mem_nil _
  case storeAcc | storeWord =>
    iterate 2 refine List.forall_mem_cons.2 ⟨makesCycles_of_two_bytes rfl nofun fun _ _ => rfl, ?_⟩
    exact List.forall_mem_nil _

/-- Settles O33: X after the fetch is X before it. The byte of a read-modify-write is computed from the
state after the fetch, which is the state that `fetched` spells out. -/
theorem indexedCycles : Obligations.IndexedCycles := by
  intro s o
  refine ⟨makesCycles_of_two_bytes rfl nofun fun _ _ => rfl, ?src8, ?src16, ?storeAcc, ?storeWord,
    makesCycles_of_two_bytes rfl nofun fun _ _ => rfl, ?modify,
    makesCycles_of_two_bytes rfl nofun fun _ _ => rfl⟩
  case modify =>
    iterate 10 refine List.forall_mem_cons.2 ⟨makesCycles_of_two_bytes rfl nofun
      fun _ fetched => by rw [fetched]; rfl, ?_⟩
    exact List.forall_mem_nil _
  case src8 =>
    iterate 20 refine List.forall_mem_cons.2 ⟨makesCycles_of_two_bytes rfl nofun fun _ _ => rfl, ?_⟩
    exact List.forall_mem_nil _
  case src16 =>
    iterate 3 refine List.forall_mem_cons.2 ⟨makesCycles_of_two_bytes rfl nofun fun _ _ => rfl, ?_⟩
    exact List.forall_mem_nil _
  case storeAcc | storeWord =>
    iterate 2 refine List.forall_mem_cons.2 ⟨makesCycles_of_two_bytes rfl nofun fun _ _ => rfl, ?_⟩
    exact List.forall_mem_nil _

/-- The address of an extended JSR's third byte, seen from after the instruction. -/
theorem add_three_sub_one (w : Word) : w + 3 - 1 = w + 2 := by
  rw [add_sub_assoc]; rfl

/-- Settles O34: as for the indexed forms, with three bytes to fetch. -/
theorem extendedCycles : Obligations.ExtendedCycles := by
  intro s ea
  refine ⟨makesCycles_of_three_bytes rfl nofun fun _ _ => rfl, ?src8, ?src16, ?jsr, ?storeAcc,
    ?storeWord, ?modify, makesCycles_of_three_bytes rfl nofun fun _ _ => rfl⟩
  case jsr =>
    exact makesCycles_of_three_bytes rfl nofun fun _ _ => by
      rw [← add_three_sub_one s.pc]; rfl
  case modify =>
    iterate 10 refine List.forall_mem_cons.2 ⟨makesCycles_of_three_bytes rfl nofun
      fun _ fetched => by rw [fetched]; rfl, ?_⟩
    exact List.forall_mem_nil _
  case src8 =>
    iterate 20 refine List.forall_mem_cons.2 ⟨makesCycles_of_three_bytes rfl nofun fun _ _ => rfl, ?_⟩
    exact List.forall_mem_nil _
  case src16 =>
    iterate 3 refine List.forall_mem_cons.2 ⟨makesCycles_of_three_bytes rfl nofun fun _ _ => rfl, ?_⟩
    exact List.forall_mem_nil _
  case storeAcc | storeWord =>
    iterate 2 refine List.forall_mem_cons.2 ⟨makesCycles_of_three_bytes rfl nofun fun _ _ => rfl, ?_⟩
    exact List.forall_mem_nil _

/-- Settles O35: every one reads the byte after its opcode first. -/
theorem inherentCycles : Obligations.InherentCycles := by
  intro s
  refine ⟨?twoCycles, makesCycles_of_one_byte rfl nofun fun _ _ => rfl,
    makesCycles_of_one_byte rfl nofun fun _ _ => rfl, makesCycles_of_one_byte rfl nofun fun _ _ => rfl,
    makesCycles_of_one_byte rfl nofun fun _ _ => rfl, makesCycles_of_one_byte rfl nofun fun _ _ => rfl,
    makesCycles_of_one_byte rfl nofun fun _ _ => rfl, ?push, ?pull,
    makesCycles_of_one_byte rfl nofun fun _ _ => rfl⟩
  case twoCycles =>
    iterate 37 refine List.forall_mem_cons.2 ⟨makesCycles_of_one_byte rfl nofun fun _ _ => rfl, ?_⟩
    exact List.forall_mem_nil _
  case push | pull =>
    iterate 2 refine List.forall_mem_cons.2 ⟨makesCycles_of_one_byte rfl nofun fun _ _ => rfl, ?_⟩
    exact List.forall_mem_nil _

/-- Settles O36: a branch has the same rows taken or not. -/
theorem interruptAndBranchCycles : Obligations.InterruptAndBranchCycles := by
  intro s rel
  refine ⟨makesCycles_of_one_byte rfl nofun fun _ _ => rfl,
    makesCycles_of_one_byte rfl nofun fun _ _ => rfl, makesCycles_of_one_byte rfl nofun fun _ _ => rfl,
    ?branches, makesCycles_of_two_bytes rfl nofun fun _ _ => rfl⟩
  case branches =>
    iterate 15 refine List.forall_mem_cons.2 ⟨makesCycles_of_two_bytes rfl nofun fun _ _ => rfl, ?_⟩
    exact List.forall_mem_nil _

end Machine

end Sys2Proof
end

section
/-! PROOFS. LDX, LDS, STX, STS (R195 to R198). -/

namespace Sys2Proof

open Machine

/-- The 16-bit operand of a memory mode is the two bytes from the effective address on, where memory
answers. -/
theorem Src16.value_of_memory {s : State} {m : Mem} (high : ReadsMemory s (m.ea s))
    (low : ReadsMemory s (m.ea s + 1)) : (Src16.mem m).value s = s.mem.read16 (m.ea s) := by
  have runs := m.address_runs s
  have kept : ∀ {addr}, ReadsMemory s addr → (m.address s).mem.read addr = s.mem.read addr :=
    fun h => runs.read_of_not_written h.2 (.inl (by simp))
  show (m.address s).readWord (m.ea s) = _
  rw [State.readWord_of_memory (State.readsMemory_of_runs runs high)
    (State.readsMemory_of_runs runs low), Memory.read16, kept high, kept low]
  rfl

theorem Src16.access_stores (q : Src16) (s : State) : Stores [] s (q.access s) :=
  Stores.nil_of_runs (q.access_runs s) (q.rows_written s)

namespace Machine

/-- N and Z of a 16-bit value, as the kernel computes them. -/
theorem wordFlags_rule (w : Word) (f : Ccr) : WordFlagsRule w f (wordFlags w f) := by
  refine ⟨rfl, rfl, ?_, ?_, rfl, rfl⟩
  · simp [wordFlags, BitVec.msb_eq_decide]
  · simp [wordFlags, ← BitVec.toNat_inj]

/-- The high byte and the low byte of a stored word are at two addresses. -/
theorem storeWord_onlyBytes (w : Word) (m : Mem) (s : State) :
    OnlyBytes [(m.ea s, hi8 w), (m.ea s + 1, lo8 w)] s (storeWord w m s) := by
  have stores := Stores.of_runs (storeWord_runs w m s) (by simp [List.filterMap_cons])
  refine ⟨by rw [storeWord_eq], ?_⟩
  simpa [List.filterMap_cons] using stores

/-- Settles O18: a load reads two bytes and stores none, a store is `storeWord`. -/
theorem loadAndStoreSixteenBit : Obligations.LoadAndStoreSixteenBit := by
  intro s q m
  refine ⟨⟨_, rfl, rfl, ?_, ?_, ?_⟩, ⟨_, rfl, rfl, ?_, ?_, ?_⟩, ?_,
    ⟨_, rfl, wordFlags_rule s.x s.ccr, storeWord_onlyBytes s.x m s⟩,
    ⟨_, rfl, wordFlags_rule s.sp s.ccr, storeWord_onlyBytes s.sp m s⟩⟩
  · exact wordFlags_rule _ _
  · apply State.eq_of_fields <;> simp
  · exact (q.access_stores s).congr rfl rfl
  · exact wordFlags_rule _ _
  · apply State.eq_of_fields <;> simp
  · exact (q.access_stores s).congr rfl rfl
  · intro high low
    rw [Src16.value_of_memory high low, Memory.read16, joinBytes_toNat]

end Machine

end Sys2Proof
end

section
/-! PROOFS. Encoding: decoding and encoding are inverse to each other, and the unassigned opcodes (R80 to
R95). -/

namespace Sys2Proof

open Machine

/-! ## The bytes of a decoded instruction -/

/-- The operand bytes of the instruction that a cell builds, as encoding writes them. -/
def MapCell.operands (b1 b2 : Byte) : MapCell → List Byte
  | .star | .inh _ | .acc _ => []
  | .imm8 _ | .dir _ | .ind _ | .rel _ => [b1]
  | .imm16 _ | .ext _ => [hi8 (joinBytes b1 b2), lo8 (joinBytes b1 b2)]

theorem MapCell.operands_eq (b1 b2 : Byte) (c : MapCell) :
    c.operands b1 b2 = [b1, b2].take c.operandBytes := by
  cases c
  case imm16 | ext => simp [operands, operandBytes]
  all_goals rfl

/-- The cell of an unassigned opcode. -/
def MapCell.isStar : MapCell → Bool
  | .star => true
  | _ => false

/-- Not an unassigned opcode. -/
def Instr.isAssigned : Instr → Bool
  | .unassigned _ => false
  | _ => true

/-- What a cell builds has its operand bytes behind the opcode, and is unassigned for a star only. -/
structure MapCell.BuildsRight (c : MapCell) : Prop where
  operands : ∀ op b1 b2, (encode (c.build op b1 b2)).tail = c.operands b1 b2
  isAssigned : ∀ op b1 b2, (c.build op b1 b2).isAssigned = !c.isStar

/-- Every row of the map is right: it is gone through cell by cell (R93). -/
theorem opcodeRow_buildsRight (r : Nat) : ∀ c ∈ opcodeRow r, c.BuildsRight := by
  unfold opcodeRow
  split
  case h_17 => exact List.forall_mem_nil _
  all_goals
    iterate 16 refine List.forall_mem_cons.2 ⟨⟨fun _ _ _ => rfl, fun _ _ _ => rfl⟩, ?_⟩
    exact List.forall_mem_nil _

theorem opcodeCell_buildsRight (op : Byte) : (opcodeCell op).BuildsRight := by
  unfold opcodeCell
  rw [List.getD_eq_getElem?_getD]
  cases h : (opcodeRow (op.toNat / 16))[op.toNat % 16]? with
  | none => exact ⟨fun _ _ _ => rfl, fun _ _ _ => rfl⟩
  | some c => exact opcodeRow_buildsRight _ c (List.mem_of_getElem? h)

/-- Encoding gives back the opcode and as many operand bytes as it has (R80, R81). -/
theorem encode_decodeBytes (op b1 b2 : Byte) :
    encode (decodeBytes op b1 b2) = op :: [b1, b2].take (opcodeCell op).operandBytes := by
  have tail : (encode (decodeBytes op b1 b2)).tail = (opcodeCell op).operands b1 b2 :=
    (opcodeCell_buildsRight op).operands op b1 b2
  rw [← MapCell.operands_eq, ← tail]
  exact List.eq_cons_of_mem_head? (decodeBytes_opcode op b1 b2)

/-! ## Decoding, forwards and backwards -/

/-- An opcode with its operand bytes decodes, and the bytes after them are left. -/
theorem decode_operands (op b1 b2 : Byte) (rest : List Byte) :
    decode (op :: ([b1, b2].take (opcodeCell op).operandBytes ++ rest)) =
      .ok (decodeBytes op b1 b2, rest) := by
  unfold decodeBytes
  cases h : opcodeCell op <;> simp [decode, decodeBytes, h, MapCell.operandBytes, MapCell.build]

/-- Any three bytes decode. -/
theorem decode_three (op b1 b2 : Byte) : decode [op, b1, b2] =
    .ok (decodeBytes op b1 b2, [b1, b2].drop (opcodeCell op).operandBytes) := by
  have h := decode_operands op b1 b2 ([b1, b2].drop (opcodeCell op).operandBytes)
  rwa [List.take_append_drop] at h

/-- Bytes that decode are an opcode, its operand bytes and the rest. -/
theorem eq_operands_of_decode {bytes rest : List Byte} {i : Instr} (h : decode bytes = .ok (i, rest)) :
    ∃ op b1 b2, i = decodeBytes op b1 b2 ∧
      bytes = op :: ([b1, b2].take (opcodeCell op).operandBytes ++ rest) := by
  cases bytes with
  | nil => cases h
  | cons op l =>
    simp only [decode] at h
    split_ifs at h with short
    cases h
    refine ⟨op, l.getD 0 0, l.getD 1 0, rfl, ?_⟩
    have two := operandBytes_le_two (opcodeCell op)
    generalize (opcodeCell op).operandBytes = n at short two
    have taken : [l.getD 0 0, l.getD 1 0].take n = l.take n := by
      match n, l, short with
      | 0, _, _ => rfl
      | 1, _ :: _, _ => rfl
      | 2, _ :: _ :: _, _ => rfl
      | 1, [], short | 2, [], short | 2, [_], short => simp at short
      | n + 3, _, _ => omega
    rw [taken, List.take_append_drop]

/-! ## Unassigned opcodes (R92) -/

theorem Instr.isAssigned_iff {i : Instr} : i.isAssigned = true ↔ ∀ op, i ≠ .unassigned op := by
  cases i
  case unassigned op => exact ⟨nofun, fun h => absurd rfl (h op)⟩
  all_goals exact ⟨fun _ => nofun, fun _ => rfl⟩

theorem Instr.wf_of_isAssigned {i : Instr} (h : i.isAssigned = true) : i.wf = true := by
  cases i
  case unassigned => exact nomatch h
  all_goals rfl

/-- The list of R92 is the stars of the map of R93. -/
theorem isUnassigned_eq_isStar : ∀ op : Byte, isUnassigned op = (opcodeCell op).isStar := by decide

theorem decodeBytes_isAssigned (op b1 b2 : Byte) :
    (decodeBytes op b1 b2).isAssigned = !isUnassigned op := by
  rw [isUnassigned_eq_isStar]
  exact (opcodeCell_buildsRight op).isAssigned op b1 b2

theorem decodeBytes_of_isUnassigned {op : Byte} (h : isUnassigned op = true) (b1 b2 : Byte) :
    decodeBytes op b1 b2 = .unassigned op := by
  rw [isUnassigned_eq_isStar] at h
  unfold decodeBytes
  cases hc : opcodeCell op
  case star => rfl
  all_goals rw [hc] at h; exact nomatch h

/-- Every three bytes of memory hold a well-formed instruction (R80). -/
theorem wf_decodeBytes (op b1 b2 : Byte) : (decodeBytes op b1 b2).wf = true := by
  cases h : isUnassigned op with
  | true => rw [decodeBytes_of_isUnassigned h]; exact h
  | false => exact Instr.wf_of_isAssigned (by rw [decodeBytes_isAssigned, h]; rfl)

/-! ## Every well-formed instruction is a decoded one -/

/-- Decoding an instruction's own bytes gives it back. -/
def Instr.Recovers (i : Instr) : Prop :=
  decodeBytes ((encode i).getD 0 0) ((encode i).getD 1 0) ((encode i).getD 2 0) = i

section Modes

variable {imm dir ind ext : Byte}

theorem recovers_rel {f : Byte → Instr} {op : Byte} (bytes : ∀ rel, encode (f rel) = [op, rel])
    (ho : opcodeCell op = .rel f) (rel : Byte) : (f rel).Recovers := by
  rw [Instr.Recovers, bytes]
  simp [decodeBytes, ho, MapCell.build]

theorem recovers_indExt {f : IndExt → Instr} (bytes : ∀ m, encode (f m) = m.bytes ind ext)
    (hi : opcodeCell ind = .ind (f <| .ind ·)) (hx : opcodeCell ext = .ext (f <| .ext ·))
    (m : IndExt) : (f m).Recovers := by
  rw [Instr.Recovers, bytes]
  cases m with
  | ind o => simp [IndExt.bytes, decodeBytes, hi, MapCell.build]
  | ext a => simp [IndExt.bytes, decodeBytes, hx, MapCell.build]

theorem recovers_mem {f : Mem → Instr} (bytes : ∀ m, encode (f m) = m.bytes dir ind ext)
    (hd : opcodeCell dir = .dir (f <| .dir ·)) (hi : opcodeCell ind = .ind (f <| .ind ·))
    (hx : opcodeCell ext = .ext (f <| .ext ·)) (m : Mem) : (f m).Recovers := by
  rw [Instr.Recovers, bytes]
  cases m with
  | dir a => simp [Mem.bytes, decodeBytes, hd, MapCell.build]
  | ind o => simp [Mem.bytes, decodeBytes, hi, MapCell.build]
  | ext a => simp [Mem.bytes, decodeBytes, hx, MapCell.build]

theorem recovers_src8 {f : Src8 → Instr} (bytes : ∀ m, encode (f m) = m.bytes imm dir ind ext)
    (hm : opcodeCell imm = .imm8 (f <| .imm ·)) (hd : opcodeCell dir = .dir (f <| .mem <| .dir ·))
    (hi : opcodeCell ind = .ind (f <| .mem <| .ind ·))
    (hx : opcodeCell ext = .ext (f <| .mem <| .ext ·)) (m : Src8) : (f m).Recovers := by
  cases m with
  | imm v => rw [Instr.Recovers, bytes]; simp [Src8.bytes, decodeBytes, hm, MapCell.build]
  | mem m => exact recovers_mem (f := fun m => f (.mem m)) (fun m => bytes (.mem m)) hd hi hx m

theorem recovers_src16 {f : Src16 → Instr} (bytes : ∀ m, encode (f m) = m.bytes imm dir ind ext)
    (hm : opcodeCell imm = .imm16 (f <| .imm ·)) (hd : opcodeCell dir = .dir (f <| .mem <| .dir ·))
    (hi : opcodeCell ind = .ind (f <| .mem <| .ind ·))
    (hx : opcodeCell ext = .ext (f <| .mem <| .ext ·)) (m : Src16) : (f m).Recovers := by
  cases m with
  | imm v => rw [Instr.Recovers, bytes]; simp [Src16.bytes, decodeBytes, hm, MapCell.build]
  | mem m => exact recovers_mem (f := fun m => f (.mem m)) (fun m => bytes (.mem m)) hd hi hx m

end Modes

/-- Each instruction's opcodes are cells of the map that build it, mode by mode (R93). -/
theorem Instr.recovers_of_wf {i : Instr} (h : i.wf = true) : i.Recovers := by
  cases i
  case unassigned op => exact decodeBytes_of_isUnassigned h _ _
  case bra rel | bhi rel | bls rel | bcc rel | bcs rel | bne rel | beq rel | bvc rel | bvs rel
    | bpl rel | bmi rel | bge rel | blt rel | bgt rel | ble rel | bsr rel =>
    exact recovers_rel (fun _ => rfl) rfl rel
  case neg m | com m | lsr m | ror m | asr m | asl m | rol m | dec m | inc m | tst m | jmp m | clr m
    | jsr m => exact recovers_indExt (fun _ => rfl) rfl rfl m
  case staA m | staB m | sts m | stx m => exact recovers_mem (fun _ => rfl) rfl rfl rfl m
  case subA m | cmpA m | sbcA m | andA m | bitA m | ldaA m | eorA m | adcA m | oraA m | addA m
    | subB m | cmpB m | sbcB m | andB m | bitB m | ldaB m | eorB m | adcB m | oraB m | addB m =>
    exact recovers_src8 (fun _ => rfl) rfl rfl rfl rfl m
  case cpx m | lds m | ldx m => exact recovers_src16 (fun _ => rfl) rfl rfl rfl rfl m
  all_goals exact rfl

/-- Settles O1: a well-formed instruction is decoded from three bytes, and its encoding is the first of
them. -/
theorem decodeOfEncode : Obligations.DecodeOfEncode := by
  intro i rest wf
  rw [← Instr.recovers_of_wf wf, encode_decodeBytes]
  exact decode_operands _ _ _ rest

/-- Settles O2: the bytes are an opcode with its operand bytes, which encoding gives back. -/
theorem encodeOfDecode : Obligations.EncodeOfDecode := by
  intro bytes i rest h
  obtain ⟨op, b1, b2, rfl, rfl⟩ := eq_operands_of_decode h
  exact ⟨wf_decodeBytes op b1 b2, by rw [encode_decodeBytes]; rfl⟩

/-- Settles O4: the stars of the map build unassigned instructions, and no other cell does. -/
theorem unassignedOpcodesRefuse : Obligations.UnassignedOpcodesRefuse := by
  refine ⟨rfl, by decide, fun op b1 b2 h => decodeBytes_of_isUnassigned h b1 b2, ?_, fun _ _ => rfl⟩
  intro op b1 b2 op' h
  have assigned : (decodeBytes op b1 b2).isAssigned = true := by rw [decodeBytes_isAssigned, h]; rfl
  exact Instr.isAssigned_iff.1 assigned op'

/-- The encoding of an instruction alone decodes to it. -/
theorem decode_encode {i : Instr} (wf : i.wf = true) : decode (encode i) = .ok (i, []) := by
  rw [← decodeOfEncode i [] wf, List.append_nil]

/-- Settles O3: each word is the encoding of its instruction. -/
theorem specWordsDecode : Obligations.SpecWordsDecode :=
  ⟨decode_encode (i := .addA (.imm 0x4B)) rfl, decode_encode (i := .subB (.mem (.dir 0x40))) rfl,
    decode_encode (i := .inc (.ext 0x0123)) rfl, decode_encode (i := .clr (.ind 0x02)) rfl,
    decode_encode (i := .staA (.dir 0x10)) rfl, decode_encode (i := .pshA) rfl,
    decode_encode (i := .sts (.ext 0x3000)) rfl, decode_encode (i := .ldx (.imm 0x8000)) rfl,
    decode_encode (i := .bsr 0x20) rfl, decode_encode (i := .bgt 0x02) rfl,
    decode_encode (i := .jsr (.ext 0x2000)) rfl, decode_encode (i := .cli) rfl,
    decode_encode (i := .unassigned 0x87) rfl⟩

end Sys2Proof
end

section
/-! PROOFS. Operands and branches: effective addresses, operand bytes, branch conditions, and where PC
is after an instruction (R82 to R89, R101, R102, R210 to R224). -/

namespace Sys2Proof

open Machine

/-! ## Effective addresses and operands -/

theorem zext16_toNat (v : Byte) : (zext16 v).toNat = v.toNat := by
  have := v.isLt
  simp [zext16]; omega

/-- A sign-extended byte is its signed value modulo 2^16 (R9, R89). -/
theorem sext16_toNat (v : Byte) : ((sext16 v).toNat : Int) = v.toInt % 65536 := by
  rw [sext16, BitVec.signExtend, BitVec.toNat_ofInt]
  omega

theorem joinBytes_eq_ofNat (h l : Byte) :
    joinBytes h l = BitVec.ofNat 16 (h.toNat * 256 + l.toNat) := by
  rw [← joinBytes_toNat, BitVec.ofNat_toNat, BitVec.setWidth_eq]

/-- Settles O5: addresses are sums modulo 2^16, and an operand is what decoding takes behind
the opcode. -/
theorem effectiveAddresses : Obligations.EffectiveAddresses := by
  intro s a b w m
  have word := joinBytes_eq_ofNat a b
  refine ⟨zext16_toNat a, ?indexed, rfl, ?extended, ?relative, rfl, Mem.value_of_memory, rfl, rfl,
    decode_operands 0x86 a 0, ?immediate⟩
  case indexed => rw [Mem.ea, BitVec.toNat_add, zext16_toNat]
  case extended => rw [← word]; exact decode_operands 0xB6 a b
  case relative =>
    have offset := sext16_toNat a
    rw [branchTarget, BitVec.toNat_add]
    omega
  case immediate =>
    rw [← word]
    exact List.forall_mem_cons.2 ⟨decode_operands 0x8C a b, List.forall_mem_cons.2
      ⟨decode_operands 0x8E a b, List.forall_mem_singleton.2 (decode_operands 0xCE a b)⟩⟩

namespace Machine

/-! ## Branches -/

theorem branchIf_onlyPc (c : Bool) (rel : Byte) (s : State) : OnlyPc s (branchIf c rel s) :=
  ⟨by rw [branchIf_eq], Stores.nil_of_runs (branchIf_runs c rel s) rfl⟩

theorem branchIf_pc (c : Bool) (rel : Byte) (s : State) :
    (branchIf c rel s).pc = if c then branchTarget s rel else s.pc := by rw [branchIf_eq]

/-- A branch of the shape `branchIf` branches on its condition. -/
theorem branchesIff_of_branchIf {i : Byte → Instr} {s : State} {c : Bool} {cond : Prop}
    (hi : ∀ rel, exec (i rel) s = .next (branchIf c rel s)) (hc : c = true ↔ cond) :
    BranchesIff i s cond := by
  intro rel
  refine ⟨_, hi rel, branchIf_onlyPc c rel s, fun h => ?_, fun h => ?_⟩
  · rw [branchIf_pc, if_pos (hc.2 h)]; rfl
  · rw [branchIf_pc, if_neg (mt hc.1 h)]

/-- Settles O20: each branch is `branchIf` on the condition of its rule. -/
theorem branchConditions : Obligations.BranchConditions := by
  intro s
  refine ⟨?bra, ?bcc, ?bcs, ?beq, ?bne, ?bmi, ?bpl, ?bvs, ?bvc, ?bhi, ?bls, ?bge, ?blt, ?bgt, ?ble⟩
  all_goals exact branchesIff_of_branchIf (fun _ => rfl) (by simp)

/-! ## The program counter -/

/-- The instructions that load PC: branches, jumps, calls and returns. -/
def loadsPc : Instr → Bool
  | .bra _ | .bhi _ | .bls _ | .bcc _ | .bcs _ | .bne _ | .beq _ | .bvc _ | .bvs _ | .bpl _ | .bmi _
  | .bge _ | .blt _ | .bgt _ | .ble _ | .bsr _ | .jmp _ | .jsr _ | .rts | .rti | .swi => true
  | _ => false

section Shapes

variable (s : State)

@[simp] theorem binaryOp_pc (r : Acc) (m : Src8) (f : Byte → Byte → Ccr → Byte × Ccr) :
    (binaryOp r m f s).pc = s.pc := by simp [binaryOp]
@[simp] theorem compareOp_pc (r : Acc) (m : Src8) (f : Byte → Byte → Ccr → Ccr) :
    (compareOp r m f s).pc = s.pc := by rw [compareOp_eq]
@[simp] theorem accOp_pc (r : Acc) (f : Byte → Ccr → Byte × Ccr) : (accOp r f s).pc = s.pc := by
  simp [accOp]
@[simp] theorem accTest_pc (r : Acc) : (accTest r s).pc = s.pc := by rw [accTest_eq]
@[simp] theorem memOp_pc (m : IndExt) (f : Byte → Ccr → Byte × Ccr) : (memOp m f s).pc = s.pc := by
  rw [memOp_eq]
@[simp] theorem memTest_pc (m : IndExt) : (memTest m s).pc = s.pc := by rw [memTest_eq]
@[simp] theorem storeAcc_pc (r : Acc) (m : Mem) : (storeAcc r m s).pc = s.pc := by rw [storeAcc_eq]
@[simp] theorem storeWord_pc (w : Word) (m : Mem) : (storeWord w m s).pc = s.pc := by rw [storeWord_eq]
@[simp] theorem pushAcc_pc (r : Acc) : (pushAcc r s).pc = s.pc := by rw [pushAcc_eq]
@[simp] theorem pullAcc_pc (r : Acc) : (pullAcc r s).pc = s.pc := by simp [pullAcc]
@[simp] theorem flagOp_pc (f : Ccr → Ccr) : (flagOp f s).pc = s.pc := by rw [flagOp_eq]
@[simp] theorem indexOp_pc (old new : Word) : (indexOp old new s).pc = s.pc := by rw [indexOp_eq]
@[simp] theorem stackPointerOp_pc (old new : Word) : (stackPointerOp old new s).pc = s.pc := by
  rw [stackPointerOp_eq]

end Shapes

/-- Every other instruction leaves PC where the fetch has put it: none of the operations that it is made of
writes PC, by their `_pc` lemmas. -/
theorem exec_pc {i : Instr} {s t : State} (hi : loadsPc i = false) (h : exec i s = .next t) :
    t.pc = s.pc := by
  cases i
  case bra | bhi | bls | bcc | bcs | bne | beq | bvc | bvs | bpl | bmi | bge | blt | bgt | ble | bsr |
    jmp | jsr | rts | rti | swi => exact nomatch hi
  case unassigned => cases h
  all_goals cases h; simp

/-- Settles O41: the fetch adds the length, and `exec_pc` is the rest. -/
theorem sequentialProgramCounter : Obligations.SequentialProgramCounter := by
  intro i s t
  constructor
  · rintro rfl
    rw [State.fetchInstr_pc, BitVec.toNat_add, BitVec.toNat_ofNat, Nat.add_mod_mod]
  · intro h
    cases i
    case bra | bhi | bls | bcc | bcs | bne | beq | bvc | bvs | bpl | bmi | bge | blt | bgt | ble |
      bsr | jmp | jsr | rts | rti | swi => trivial
    all_goals exact exec_pc rfl h

end Machine

end Sys2Proof
end

section
/-! PROOFS. The fetch byte by byte, the step as `exec` of the decoded instruction, and that no step
faults (R82, R92, R270, R300). -/

namespace Sys2Proof.Machine

open Sys2Proof

/-! ## The bytes that a fetch reads -/

/-- What a cycle shows on the bus, but for DBE. -/
def BusCycle.shown (c : BusCycle) : Bool × Bool × Word × Option Byte :=
  (c.vma, c.write, c.addr, c.data)

/-- A list made from its indices, mapped with its indices. -/
theorem mapIdx_map_range {α β : Type} (g : Nat → α) (f : Nat → α → β) (n : Nat) :
    ((List.range n).map g).mapIdx f = (List.range n).map fun k => f k (g k) :=
  List.ext_getElem (by simp) (by simp)

namespace State

/-- The state after the fetch of `n` bytes. -/
def afterBytes (s : State) : Nat → State
  | 0 => s
  | n + 1 => (s.afterBytes n).fetch8

/-- The byte that the fetch of byte `k` reads. -/
def fetchedByte (s : State) (k : Nat) : Byte := (s.afterBytes k).readData (s.afterBytes k).pc

theorem afterBytes_pc (s : State) (n : Nat) : (s.afterBytes n).pc = s.pc + BitVec.ofNat 16 n := by
  induction n with
  | zero => simp [afterBytes]
  | succ n ih => rw [afterBytes, fetch8_pc, ih, add_assoc, BitVec.ofNat_add]; rfl

theorem afterBytes_runs (s : State) (n : Nat) :
    s.bus.Runs (fetchRows s.pc n) (s.afterBytes n).bus := by
  induction n with
  | zero => exact .refl
  | succ n ih =>
    have next := ih.trans (s.afterBytes n).fetch8_runs
    rw [afterBytes_pc] at next
    rw [afterBytes]
    simpa [fetchRows, List.range_succ] using next

/-- Where memory answers and nobody else writes, a fetched byte is the one in memory. -/
theorem fetchedByte_of_memory {s : State} {k : Nat} (h : ReadsMemory s (s.pc + BitVec.ofNat 16 k)) :
    s.fetchedByte k = s.mem.read (s.pc + BitVec.ofNat 16 k) := by
  have runs := s.afterBytes_runs k
  rw [fetchedByte, afterBytes_pc, readData_of_memory (readsMemory_of_runs runs h)]
  exact runs.read_of_not_written h.2 (.inl (by simp))

/-- One fetched byte is one read cycle at PC. -/
theorem fetch8_shown (s : State) : (mpuCycles s.fetch8.bus.record).map BusCycle.shown =
    (mpuCycles s.bus.record).map BusCycle.shown ++ [(true, false, s.pc, some (s.readData s.pc))] := by
  have record : s.fetch8.bus.record = s.bus.record ++ s.bus.newEvents (s.bus.readCycle s.pc) :=
    Bus.read_record s.bus s.pc
  rw [record, Bus.newEvents, mpuCycles_append, mpuCycles_append, mpuCycles_asEvents, List.map_append]
  rfl

/-- The cycles of `n` fetched bytes: one read each, at PC and on. -/
theorem afterBytes_shown (s : State) (n : Nat) :
    (mpuCycles (s.afterBytes n).bus.record).map BusCycle.shown =
      (mpuCycles s.bus.record).map BusCycle.shown ++ (List.range n).map fun k =>
        (true, false, s.pc + BitVec.ofNat 16 k, some (s.fetchedByte k)) := by
  induction n with
  | zero => simp [afterBytes]
  | succ n ih =>
    rw [afterBytes, fetch8_shown, ih, afterBytes_pc, List.range_succ, List.map_append,
      List.append_assoc, List.map_singleton, fetchedByte, afterBytes_pc]

/-- A fetch is the fetch of as many bytes as the instruction has. -/
theorem fetchInstr_afterBytes (s : State) :
    s.fetchInstr.2 = s.afterBytes (encode s.fetchInstr.1).length := by
  rcases s.fetchInstr_cases with ⟨h, k⟩ | ⟨h, k⟩ | ⟨h, k⟩ <;>
    rw [Instr.length] at h <;> rw [h, k] <;> rfl

/-- The fetched instruction is the one at the bytes from PC on; a byte after its last one is not read,
and does not matter. -/
theorem fetchInstr_eq_decodeBytes (s : State) :
    s.fetchInstr.1 = decodeBytes (s.fetchedByte 0) (s.fetchedByte 1) (s.fetchedByte 2) := by
  have opcode : s.readData s.pc = s.fetchedByte 0 := rfl
  cases h : opcodeCell (s.fetchedByte 0) <;>
    simp [fetchInstr, opcode, decodeBytes, h, MapCell.operandBytes, MapCell.build] <;> rfl

theorem wf_fetchInstr (s : State) : s.fetchInstr.1.wf = true := by
  rw [fetchInstr_eq_decodeBytes]; exact wf_decodeBytes _ _ _

/-- The bytes of the fetched instruction are the bytes that the fetch reads (R80, R82). -/
theorem encode_fetchInstr (s : State) :
    encode s.fetchInstr.1 = (List.range (encode s.fetchInstr.1).length).map s.fetchedByte := by
  rw [fetchInstr_eq_decodeBytes, encode_decodeBytes]
  have two := operandBytes_le_two (opcodeCell (s.fetchedByte 0))
  generalize (opcodeCell (s.fetchedByte 0)).operandBytes = n at two
  match n, two with
  | 0, _ | 1, _ | 2, _ => rfl

/-- Where memory answers, the fetched instruction is the one at the bytes in memory. -/
theorem fetchInstr_of_memory {s : State} (h : ∀ k < 3, ReadsMemory s (s.pc + BitVec.ofNat 16 k)) :
    s.fetchInstr.1 =
      decodeBytes (s.mem.read s.pc) (s.mem.read (s.pc + 1)) (s.mem.read (s.pc + 2)) := by
  rw [fetchInstr_eq_decodeBytes, fetchedByte_of_memory (h 0 (by decide)),
    fetchedByte_of_memory (h 1 (by decide)), fetchedByte_of_memory (h 2 (by decide)),
    BitVec.ofNat_eq_ofNat, BitVec.add_zero]
  rfl

/-! ## The step as `exec` of the fetched instruction -/

/-- The state of `AtExecute` is the one in which the sampled machine executes, where no NMI is
requested. -/
theorem readyToExecute_of_atExecute {s s' : State} (ho : OpenBoundary s)
    (hr : s.run = .running ∨ s.run = .halted) (hn : ¬NmiRequested s) (h : AtExecute s s') :
    s.sampled.readyToExecute = s' := by
  have notReset : s.run ≠ .inReset := by rcases hr with h | h <;> rw [h] <;> exact nofun
  have latch : s.nmiLatched = false := Bool.eq_false_iff.2 (mt (nmiLatched_iff ho.2.2.1 notReset).1 hn)
  have pending : s.nmiPending = false := Bool.eq_false_iff.2 fun h => hn (.inl h)
  rw [h, readyToExecute_eq]
  apply eq_of_fields <;> try rfl
  exact latch.trans pending.symm

end State

/-- Settles O43: the bytes are those that the fetch reads, and they are the encoding of what it
fetches. -/
theorem stepRunsDecodedInstruction : Obligations.StepRunsDecodedInstruction := by
  intro s s' ho hr hn hi h
  have pc : s'.pc = s.pc := by rw [h]; rfl
  have record : s'.bus.record = [] := by rw [h]; rfl
  have bytes := s'.encode_fetchInstr
  refine ⟨encode s'.fetchInstr.1, s'.fetchInstr.1, s'.fetchInstr.2, decode_encode s'.wf_fetchInstr,
    s'.wf_fetchInstr, ?step, ?frame, Stores.nil_of_runs s'.fetchInstr_runs (by simp), ?cycles,
    ?inMemory, ?unique⟩
  case step =>
    rw [State.step_of_no_reset ho.1, State.action_of_no_request ho hr hn hi,
      ← State.readyToExecute_of_atExecute ho hr hn h]
    rfl
  case frame => rw [← pc]; exact s'.fetchInstr_eq
  case cycles =>
    have shown := s'.afterBytes_shown (encode s'.fetchInstr.1).length
    rw [← State.fetchInstr_afterBytes, record, pc] at shown
    rw [bytes, mapIdx_map_range]
    exact shown
  case inMemory =>
    intro k hk mem
    rw [← pc] at mem ⊢
    rw [← State.fetchedByte_of_memory mem, bytes, List.getElem?_map, List.getElem?_range hk]
    rfl
  case unique =>
    intro mem i' rest hd
    rw [← pc] at mem hd
    rw [State.fetchInstr_of_memory mem]
    exact (congrArg Prod.fst (Except.ok.inj ((decode_three _ _ _).symm.trans hd))).symm

/-! ## No step faults -/

/-- An instruction gives a next state, or it is an unassigned opcode and refuses (R270). -/
theorem exec_next_or_refused (i : Instr) (s : State) :
    (∃ t, exec i s = .next t) ∨
      ∃ op, i = .unassigned op ∧ exec i s = .refused (.unassignedOpcode op) := by
  by_cases h : i.isAssigned = true
  · obtain ⟨t, ht, -⟩ := exec_rows (Instr.isAssigned_iff.1 h) s
    exact .inl ⟨t, ht⟩
  · cases i
    case unassigned op => exact .inr ⟨op, rfl, rfl⟩
    all_goals exact absurd rfl h

/-- A fetched unassigned instruction names the opcode that was read. -/
theorem State.fetchInstr_unassigned {s : State} {op : Byte} (h : s.fetchInstr.1 = .unassigned op) :
    op = s.readData s.pc ∧ isUnassigned op = true := by
  have opcode := s.fetchInstr_opcode
  have wf := s.wf_fetchInstr
  rw [h] at opcode wf
  exact ⟨Option.some.inj opcode, wf⟩

/-- An action gives a next state, or it is the execution of an unassigned opcode and refuses. -/
theorem State.perform_next_or_refused (s : State) (act : Action) :
    (∃ t, s.perform exec act = .next t) ∨
      (act = .execute ∧ isUnassigned (s.readData s.pc) = true ∧
        s.perform exec act = .refused (.unassignedOpcode (s.readData s.pc))) := by
  cases act
  case execute =>
    rcases exec_next_or_refused s.readyToExecute.fetchInstr.1 s.readyToExecute.fetchInstr.2 with
      next | ⟨op, fetched, refused⟩
    · exact .inl next
    · obtain ⟨rfl, unassigned⟩ := State.fetchInstr_unassigned fetched
      exact .inr ⟨rfl, unassigned, refused⟩
  all_goals exact .inl ⟨_, rfl⟩

/-- Settles O44: a step is an action, which RESET may cut short into a next state. -/
theorem stepCompletesOrMeetsUnassignedOpcode : Obligations.StepCompletesOrMeetsUnassignedOpcode := by
  intro s
  have named : step s = .refused (.unassignedOpcode (s.onBus.readData s.pc)) →
      s.sampled.action = .execute → isUnassigned (s.onBus.readData s.pc) = true →
      ∃ op, isUnassigned op = true ∧ step s = .refused (.unassignedOpcode op) ∧
        s.sampled.action = .execute ∧ op = s.onBus.readData s.pc ∧
        (ReadsMemory s.onBus s.pc → op = s.afterDma.read s.pc) :=
    fun refused act unassigned => ⟨_, unassigned, refused, act, rfl, State.readData_of_memory⟩
  have performed := s.sampled.perform_next_or_refused s.sampled.action
  cases cut : s.sample.resetAfter with
  | none =>
    rw [← State.step_of_no_reset cut] at performed
    exact performed.imp id fun ⟨act, unassigned, refused⟩ => named refused act unassigned
  | some k =>
    have stepped : step s = s.sampled.cutStep k (s.sampled.perform exec s.sampled.action) := by
      unfold step State.atBoundary; rw [cut]
    rcases performed with ⟨t, next⟩ | ⟨act, unassigned, refused⟩
    · exact .inl ⟨_, by rw [stepped, next]; rfl⟩
    · rw [refused] at stepped
      simp only [State.cutStep] at stepped
      split at stepped
      · exact .inl ⟨_, stepped⟩
      · exact .inr (named stepped act unassigned)

end Sys2Proof.Machine
end

section
/-! PROOFS. Arithmetic on one operand, decimal arithmetic, and the order of two bytes (R116, R118 to R120,
R128, R211 to R221). -/

namespace Sys2Proof.Machine

open Sys2Proof

/-! ## One-operand instructions follow the rule of their kernel -/

theorem unaryOnAcc_of_accOp {i : Instr} {r : Acc} {f : Byte → Ccr → Byte × Ccr}
    {rule : Byte → Ccr → Byte → Ccr → Prop} {s : State} (hi : exec i s = .next (accOp r f s))
    (hr : ∀ a c, rule a c (f a c).1 (f a c).2) : UnaryOnAcc i r rule s := by
  refine ⟨_, hi, ?_, accOp_onlyAcc r f s⟩
  simpa [accOp] using hr (s.acc r) s.ccr

/-- The read-modify-write pattern stores one byte, the result, at the effective address. -/
theorem memOp_onlyBytes (m : IndExt) (f : Byte → Ccr → Byte × Ccr) (s : State) :
    OnlyBytes [(m.toMem.ea s, (f (m.toMem.value s) s.ccr).1)] s (memOp m f s) := by
  have stores := Stores.of_runs (memOp_runs m f s) (by simp [List.filterMap_cons])
  refine ⟨by rw [memOp_eq], ?_⟩
  simpa [List.filterMap_cons] using stores

theorem unaryOnMemory_of_memOp {i : Instr} {m : IndExt} {f : Byte → Ccr → Byte × Ccr}
    {rule : Byte → Ccr → Byte → Ccr → Prop} {s : State} (hi : exec i s = .next (memOp m f s))
    (hr : ∀ a c, rule a c (f a c).1 (f a c).2) : UnaryOnMemory i m rule s := by
  refine ⟨_, _, hi, ?_, memOp_onlyBytes m f s⟩
  rw [memOp_eq]
  exact hr _ s.ccr

/-! ## NEG, INC, DEC (R118 to R120) -/

theorem neg8_negRule (m : Byte) (f : Ccr) : NegRule m f (neg8 m f).1 (neg8 m f).2 := by
  refine ⟨by simp [neg8], rfl, rfl, signAndZero_of_result rfl rfl, ?_, ?_⟩ <;>
    simp [neg8, ← BitVec.toNat_inj]

theorem inc8_incRule (m : Byte) (f : Ccr) : IncRule m f (inc8 m f).1 (inc8 m f).2 :=
  ⟨by simp [inc8], rfl, rfl, signAndZero_of_result rfl rfl, by simp [inc8, ← BitVec.toNat_inj], rfl⟩

theorem dec8_decRule (m : Byte) (f : Ccr) : DecRule m f (dec8 m f).1 (dec8 m f).2 :=
  ⟨by simp [dec8, BitVec.toNat_sub, Nat.add_comm], rfl, rfl, signAndZero_of_result rfl rfl,
    by simp [dec8, ← BitVec.toNat_inj], rfl⟩

/-- Settles O8: each instruction is a shape over its kernel. -/
theorem negateIncrementDecrement : Obligations.NegateIncrementDecrement := fun _ _ =>
  ⟨unaryOnAcc_of_accOp rfl neg8_negRule, unaryOnAcc_of_accOp rfl neg8_negRule,
    unaryOnMemory_of_memOp rfl neg8_negRule,
    unaryOnAcc_of_accOp rfl inc8_incRule, unaryOnAcc_of_accOp rfl inc8_incRule,
    unaryOnMemory_of_memOp rfl inc8_incRule,
    unaryOnAcc_of_accOp rfl dec8_decRule, unaryOnAcc_of_accOp rfl dec8_decRule,
    unaryOnMemory_of_memOp rfl dec8_decRule⟩

/-! ## DAA (R128) -/

/-- The correction table of the model is that of the rule, whatever V becomes. -/
theorem daa8_daaRule (a : Byte) (freeV : Bool) (f : Ccr) :
    DaaRule a f (daa8 a freeV f).1 (daa8 a freeV f).2 := by
  refine ⟨?_, ?_, ?_, ?_, ?carry, rfl, rfl, signAndZero_of_result rfl rfl⟩
  case carry =>
    by_cases high : 9 < a.toNat / 16 ∨ f.c = true ∨ (9 ≤ a.toNat / 16 ∧ 9 < a.toNat % 16)
    · simp [daa8, daaCorrection, high]
    · simp only [daa8, daaCorrection, high, if_false, iff_false]
      exact fun set => high (.inr (.inl set))
  all_goals
    intro low high
    simp [daa8, daaCorrection, low, high]

/-- Settles O9: DAA is `accOp` over `daa8`, and one free value more is taken. -/
theorem decimalAdjust : Obligations.DecimalAdjust := by
  intro s
  refine ⟨_, rfl, ?_, ?_, ?_⟩
  · rw [accOp_a_eq]
    exact daa8_daaRule s.a _ s.ccr
  · rw [accOp_a_eq]
    rfl
  · exact (Stores.nil_of_runs (accOp_runs .a (daa8 · (Config.freeBit s.draws)) s) rfl).congr rfl rfl

/-! ## Decimal addition (R110 to R112, R128) -/

/-- A BCD byte of a number below 100 is its tens digit over its ones digit. -/
theorem bcd_toNat {n : Nat} (h : n < 100) : (bcd n).toNat = n / 10 * 16 + n % 10 := by
  rw [bcd, BitVec.toNat_ofNat, Nat.mod_eq_of_lt (by omega)]

/-- The BCD byte of the last two digits of a number. -/
theorem bcd_mod_toNat {n tens ones : Nat} (h : n % 100 = 10 * tens + ones) (ho : ones < 10) :
    (bcd (n % 100)).toNat = 16 * tens + ones := by
  rw [bcd_toNat (Nat.mod_lt _ (by norm_num)), h]
  omega

/-- The tests of DAA on a binary sum of two BCD bytes, where `ones` and `tens` are the sums of the digits:
the ones carry in decimal, and the whole sum does. -/
theorem decimal_carries_iff {tens ones : Nat} (ht : tens ≤ 18) (ho : ones ≤ 19) :
    (9 < (16 * tens + ones) % 256 % 16 ∨ 15 < ones ↔ 9 < ones) ∧
    (9 < (16 * tens + ones) % 256 / 16 ∨ 255 < 16 * tens + ones ∨
        (9 ≤ (16 * tens + ones) % 256 / 16 ∧ 9 < (16 * tens + ones) % 256 % 16) ↔
      99 < 10 * tens + ones) := by
  have low : (16 * tens + ones) % 256 % 16 = ones % 16 := by omega
  have high : (16 * tens + ones) % 256 / 16 = (tens + ones / 16) % 16 := by omega
  rw [low, high]
  constructor <;> omega

/-- The digits of a sum of two numbers below 100. -/
theorem sum_eq_digits (p q c : Nat) :
    p + q + c = 10 * (p / 10 + q / 10) + (p % 10 + q % 10 + c) := by omega

/-- A binary sum of BCD bytes is the sums of their digits, in place. -/
theorem sumRule_bcd {p q : Nat} {cin : Bool} {f g : Ccr} {r : Byte} (hp : p < 100) (hq : q < 100)
    (sum : SumRule (bcd p) (bcd q) cin f r g) :
    r.toNat = (16 * (p / 10 + q / 10) + (p % 10 + q % 10 + cin.toNat)) % 256 ∧
    (g.h = true ↔ 15 < p % 10 + q % 10 + cin.toNat) ∧
    (g.c = true ↔ 255 < 16 * (p / 10 + q / 10) + (p % 10 + q % 10 + cin.toNat)) := by
  obtain ⟨value, half, -, -, -, carry⟩ := sum
  rw [bcd_toNat hp, bcd_toNat hq] at value half carry
  have ones (n : Nat) : (n / 10 * 16 + n % 10) % 16 = n % 10 := by omega
  have total : p / 10 * 16 + p % 10 + (q / 10 * 16 + q % 10) + cin.toNat =
      16 * (p / 10 + q / 10) + (p % 10 + q % 10 + cin.toNat) := by ring
  rw [ones, ones] at half
  rw [total] at value carry
  exact ⟨value, half, carry⟩

/-- DAA adds 06 exactly when the ones of a sum of BCD bytes carry and 60 exactly when the whole sum does,
which makes the sum decimal. -/
theorem daaRule_of_bcd_sum {p q : Nat} {cin : Bool} {f g k : Ccr} {r u : Byte} (hp : p < 100)
    (hq : q < 100) (sum : SumRule (bcd p) (bcd q) cin f r g) (adjusted : DaaRule r g u k) :
    u = bcd ((p + q + cin.toNat) % 100) ∧ (k.c = true ↔ 99 < p + q + cin.toNat) := by
  have hc : cin.toNat ≤ 1 := Bool.toNat_le cin
  obtain ⟨value, half, carry⟩ := sumRule_bcd hp hq sum
  obtain ⟨plus00, plus06, plus60, plus66, carryOut, -⟩ := adjusted
  have ht : p / 10 + q / 10 ≤ 18 := by omega
  have ho : p % 10 + q % 10 + cin.toNat ≤ 19 := by omega
  rw [sum_eq_digits]
  generalize p / 10 + q / 10 = tens, p % 10 + q % 10 + cin.toNat = ones at *
  obtain ⟨low, high⟩ := decimal_carries_iff ht ho
  rw [half, carry, value, low, high] at plus00 plus06 plus60 plus66
  rw [carry, value, high] at carryOut
  refine ⟨BitVec.eq_of_toNat_eq ?_, carryOut⟩
  by_cases onesCarry : 9 < ones <;> by_cases tensCarry : 99 < 10 * tens + ones
  · rw [plus66 onesCarry tensCarry, bcd_mod_toNat (tens := tens - 9) (ones := ones - 10)] <;> omega
  · rw [plus06 onesCarry tensCarry, bcd_mod_toNat (tens := tens + 1) (ones := ones - 10)] <;> omega
  · rw [plus60 onesCarry tensCarry, bcd_mod_toNat (tens := tens - 10) (ones := ones)] <;> omega
  · rw [plus00 onesCarry tensCarry, bcd_mod_toNat (tens := tens) (ones := ones)] <;> omega

/-- An instruction that adds into A, and then DAA. -/
theorem decimalSum_of_binaryOnAcc {i : Instr} {s : State} {p q : Nat} {cin : Ccr → Bool} (hp : p < 100)
    (hq : q < 100) (ha : s.a = bcd p)
    (add : BinaryOnAcc i .a (bcd q) (fun x y f => SumRule x y (cin f) f) s) :
    ∃ t u, exec i s = .next t ∧ exec .daa t = .next u ∧
      u.a = bcd ((p + q + (cin s.ccr).toNat) % 100) ∧
      (u.ccr.c = true ↔ 99 < p + q + (cin s.ccr).toNat) := by
  obtain ⟨t, added, sum, -⟩ := add
  obtain ⟨u, adjusted, daa, -⟩ := decimalAdjust t
  rw [State.acc, ha] at sum
  exact ⟨t, u, added, adjusted, daaRule_of_bcd_sum hp hq sum daa⟩

/-- Settles O10: the sums of O6, adjusted by O9. -/
theorem decimalAdditionOfBcdBytes : Obligations.DecimalAdditionOfBcdBytes := by
  intro s m p q hp hq ha
  obtain ⟨addA, -, adcA, -, aba⟩ := additionInstructions s m
  refine ⟨fun hm => ?_, fun hb => ?_⟩
  · rw [hm] at addA adcA
    exact ⟨by simpa using decimalSum_of_binaryOnAcc (cin := fun _ => false) hp hq ha addA,
      decimalSum_of_binaryOnAcc (cin := Ccr.c) hp hq ha adcA⟩
  · rw [hb] at aba
    simpa using decimalSum_of_binaryOnAcc (cin := fun _ => false) hp hq ha aba

/-! ## Compare, then branch (R116, R211 to R219, R221) -/

section Order

variable {p q : Byte} {f g : Ccr} (d : DifferenceFlags p q false f g)

include d

theorem DifferenceFlags.z_iff_eq : g.z = true ↔ p = q := by
  obtain ⟨-, -, -, z, -, -⟩ := d
  have hp := p.isLt
  have hq := q.isLt
  rw [z, Bool.toNat_false, ← BitVec.toNat_inj]
  omega

theorem DifferenceFlags.c_iff_lt : g.c = true ↔ p.toNat < q.toNat := by
  obtain ⟨-, -, -, -, -, c⟩ := d
  exact c

/-- N is the sign of the difference, and V says that the sign is wrong. -/
theorem DifferenceFlags.n_ne_v_iff_lt : g.n ≠ g.v ↔ p.toInt < q.toInt := by
  obtain ⟨-, -, n, -, v, -⟩ := d
  have hp := p.isLt
  have hq := q.isLt
  rw [ne_eq, Bool.eq_iff_iff, n, v, Bool.toNat_false, toInt_byte, toInt_byte]
  split_ifs <;> omega

end Order

theorem BranchesIff.congr {i : Byte → Instr} {s : State} {c d : Prop} (h : BranchesIff i s c)
    (hcd : c ↔ d) : BranchesIff i s d := by rwa [← propext hcd]

/-- The instructions that compare an accumulator with a byte by a difference without borrow, with the two
bytes. -/
def comparisons (s : State) (m : Src8) : List (Instr × Byte × Byte) :=
  [(.cmpA m, s.a, m.value s), (.cmpB m, s.b, m.value s), (.subA m, s.a, m.value s),
    (.subB m, s.b, m.value s), (.sba, s.a, s.b), (.cba, s.a, s.b)]

theorem comparison_differenceFlags (s : State) (m : Src8) : ∀ c ∈ comparisons s m,
    ∃ t, exec c.1 s = .next t ∧ DifferenceFlags c.2.1 c.2.2 false s.ccr t.ccr := by
  obtain ⟨⟨a, subA, ⟨-, da⟩, -⟩, ⟨b, subB, ⟨-, db⟩, -⟩, -, -, ⟨t, sba, ⟨-, dt⟩, -⟩, ⟨ca, cmpA, dca, -⟩,
    ⟨cb, cmpB, dcb, -⟩, ⟨u, cba, du, -⟩⟩ := subtractionAndCompare s m
  simp only [comparisons, List.forall_mem_cons]
  exact ⟨⟨ca, cmpA, dca⟩, ⟨cb, cmpB, dcb⟩, ⟨a, subA, da⟩, ⟨b, subB, db⟩, ⟨t, sba, dt⟩, ⟨u, cba, du⟩,
    List.forall_mem_nil _⟩

/-- Settles O21: the conditions of O20, with the flags of the difference read as the order of its operands. -/
theorem compareThenBranchOrders : Obligations.CompareThenBranchOrders := by
  intro s m c hc
  obtain ⟨t, compared, d⟩ := comparison_differenceFlags s m c hc
  obtain ⟨-, bcc, bcs, beq, bne, -, -, -, -, bhi, bls, bge, blt, bgt, ble⟩ := branchConditions t
  have equal := d.z_iff_eq
  have below := d.c_iff_lt
  have less := d.n_ne_v_iff_lt
  have unequal : t.ccr.z = false ↔ c.2.1 ≠ c.2.2 := by rw [← Bool.not_eq_true, equal]
  have notBelow : t.ccr.c = false ↔ c.2.2.toNat ≤ c.2.1.toNat := by
    rw [← Bool.not_eq_true, below, not_lt]
  have notLess : t.ccr.n = t.ccr.v ↔ c.2.2.toInt ≤ c.2.1.toInt := by
    rw [← not_lt, ← less, not_not]
  have equalNat : c.2.1 = c.2.2 ↔ c.2.1.toNat = c.2.2.toNat := BitVec.toNat_inj.symm
  have equalInt : c.2.1 = c.2.2 ↔ c.2.1.toInt = c.2.2.toInt := BitVec.toInt_inj.symm
  refine ⟨t, compared, beq.congr equal, bne.congr unequal, bcc.congr notBelow, bcs.congr below,
    bhi.congr ?_, bls.congr ?_, bge.congr notLess, blt.congr less, bgt.congr ?_, ble.congr ?_⟩
  · rw [notBelow, unequal, ne_eq, equalNat]; omega
  · rw [below, equal, equalNat]; omega
  · rw [unequal, notLess, ne_eq, equalInt]; omega
  · rw [equal, less, equalInt]; omega

end Sys2Proof.Machine
end

section
/-! PROOFS. Logic, test, complement, clear, shifts and rotates (R140 to R151). -/

namespace Sys2Proof.Machine

open Sys2Proof

/-! ## Logic and test (R140 to R143, R146) -/

theorem logicFlags_rule (r : Byte) (f : Ccr) : LogicFlagsRule r f (logicFlags r f) :=
  ⟨rfl, rfl, signAndZero_of_result rfl rfl, rfl, rfl⟩

theorem tstFlags_rule (r : Byte) (f : Ccr) : TestFlagsRule r f (tstFlags r f) :=
  ⟨rfl, rfl, signAndZero_of_result rfl rfl, rfl, rfl⟩

/-- A two-operand instruction whose result is a bitwise operation, with the flags of its result. -/
theorem binaryOnAcc_of_logic {i : Instr} {r : Acc} {m : Src8} (op : Byte → Byte → Byte) {s : State}
    (hi : exec i s = .next (binaryOp r m (fun p q f => (op p q, logicFlags (op p q) f)) s)) :
    BinaryOnAcc i r (m.value s) (fun p q f r g => r = op p q ∧ LogicFlagsRule r f g) s :=
  binaryOnAcc_of_binaryOp hi fun p q f => ⟨rfl, logicFlags_rule (op p q) f⟩

theorem accTest_onlyFlags (r : Acc) (s : State) : OnlyFlags s (accTest r s) :=
  ⟨by rw [accTest_eq], Stores.nil_of_runs (accTest_runs r s) rfl⟩

/-- TST on memory has a cycle with R/W low, but VMA is 0 in it: no row of its cycles is a write. -/
theorem memTest_onlyFlags (m : IndExt) (s : State) : OnlyFlags s (memTest m s) :=
  ⟨by rw [memTest_eq], Stores.nil_of_runs (memTest_runs m s) (by simp [List.filterMap_cons])⟩

/-- Settles O11: AND, EOR and ORA are one shape over a bitwise operation, BIT and TST set flags only. -/
theorem logicAndTest : Obligations.LogicAndTest := fun _ _ _ =>
  ⟨binaryOnAcc_of_logic (· &&& ·) rfl, binaryOnAcc_of_logic (· &&& ·) rfl,
    binaryOnAcc_of_logic (· ^^^ ·) rfl, binaryOnAcc_of_logic (· ^^^ ·) rfl,
    binaryOnAcc_of_logic (· ||| ·) rfl, binaryOnAcc_of_logic (· ||| ·) rfl,
    ⟨_, rfl, logicFlags_rule _ _, compareOp_onlyFlags _ _ _ _⟩,
    ⟨_, rfl, logicFlags_rule _ _, compareOp_onlyFlags _ _ _ _⟩,
    ⟨_, rfl, tstFlags_rule _ _, accTest_onlyFlags _ _⟩,
    ⟨_, rfl, tstFlags_rule _ _, accTest_onlyFlags _ _⟩,
    ⟨_, rfl, tstFlags_rule _ _, memTest_onlyFlags _ _⟩⟩

/-! ## COM and CLR (R144, R145) -/

theorem com8_comRule (m : Byte) (f : Ccr) : ComRule m f (com8 m f).1 (com8 m f).2 :=
  ⟨BitVec.toNat_not, rfl, rfl, signAndZero_of_result rfl rfl, rfl, rfl⟩

theorem clr8_clrRule (m : Byte) (f : Ccr) : ClrRule m f (clr8 m f).1 (clr8 m f).2 :=
  ⟨rfl, rfl, rfl, rfl, rfl, rfl, rfl⟩

/-- Settles O12: each instruction is a shape over its kernel. -/
theorem complementAndClear : Obligations.ComplementAndClear := fun _ _ =>
  ⟨unaryOnAcc_of_accOp rfl com8_comRule, unaryOnAcc_of_accOp rfl com8_comRule,
    unaryOnMemory_of_memOp rfl com8_comRule,
    unaryOnAcc_of_accOp rfl clr8_clrRule, unaryOnAcc_of_accOp rfl clr8_clrRule,
    unaryOnMemory_of_memOp rfl clr8_clrRule⟩

/-! ## Shifts and rotates (R147 to R151) -/

theorem shiftLeft_one_toNat (m : Byte) : (m <<< 1).toNat = 2 * m.toNat % 256 := by
  rw [BitVec.toNat_shiftLeft, Nat.shiftLeft_eq, Nat.mul_comm]

theorem shiftRight_one_toNat (m : Byte) : (m >>> 1).toNat = m.toNat / 2 :=
  Nat.shiftRight_one m.toNat

/-- Bit 7 of a byte, which a shift left puts into C. -/
theorem bit7_iff (m : Byte) : m.getLsbD 7 = true ↔ 128 ≤ m.toNat := msb_iff m

/-- Bit 0 of a byte, which a shift right puts into C. -/
theorem bit0_iff (m : Byte) : m.getLsbD 0 = true ↔ m.toNat % 2 = 1 := by
  rw [BitVec.getLsbD, Nat.testBit_zero, decide_eq_true_eq]

/-- Bits put where a byte has none are added to it. -/
theorem toNat_or_of_disjoint {x y : Byte} (h : x &&& y = 0) : (x ||| y).toNat = x.toNat + y.toNat := by
  rw [← BitVec.add_eq_or_of_and_eq_zero x y h, BitVec.toNat_add_of_and_eq_zero h]

theorem shiftFlags_rule (r : Byte) (out : Bool) (f : Ccr) : ShiftFlagsRule f r (shiftFlags r out f) :=
  ⟨rfl, rfl, signAndZero_of_result rfl rfl, by simp [shiftFlags]⟩

/-- The old C goes into bit 0, which the shift left has cleared. -/
theorem rol8_toNat (m : Byte) (f : Ccr) :
    (rol8 m f).1.toNat = (2 * m.toNat + f.c.toNat) % 256 := by
  have disjoint : m <<< 1 &&& flagByte f.c = 0 := by
    ext i hi
    cases i <;> simp [flagByte]
  have carry : (flagByte f.c).toNat = f.c.toNat := by cases f.c <;> rfl
  have hc : f.c.toNat ≤ 1 := Bool.toNat_le f.c
  rw [rol8, toNat_or_of_disjoint disjoint, shiftLeft_one_toNat, carry]
  omega

/-- A bit put into bit 7, which the shift right has cleared. -/
theorem shiftRight_or_bit7_toNat (m : Byte) (b : Bool) :
    (m >>> 1 ||| flagByte b <<< 7).toNat = m.toNat / 2 + 128 * b.toNat := by
  have disjoint : m >>> 1 &&& flagByte b <<< 7 = 0 := by
    ext i hi
    rcases Nat.lt_or_eq_of_le (Nat.le_of_lt_succ hi) with below | rfl
    · simp [below]
    · simp
  have bit : (flagByte b <<< 7).toNat = 128 * b.toNat := by cases b <;> rfl
  rw [toNat_or_of_disjoint disjoint, shiftRight_one_toNat, bit]

/-- The sign bit that ASR keeps is bit 7 put back in its place. -/
theorem and_bit7_eq (m : Byte) : m &&& (0x80 : Byte) = flagByte (m.getLsbD 7) <<< 7 := by
  rw [show (0x80 : Byte) = BitVec.twoPow 8 7 from rfl, BitVec.and_twoPow]
  cases m.getLsbD 7 <;> rfl

theorem asr8_toNat (m : Byte) (f : Ccr) :
    (asr8 m f).1.toNat = m.toNat / 2 + (if 128 ≤ m.toNat then 128 else 0) := by
  rw [asr8, and_bit7_eq, shiftRight_or_bit7_toNat]
  simp only [← bit7_iff]
  cases m.getLsbD 7 <;> rfl

theorem rol8_rolRule (m : Byte) (f : Ccr) : RolRule m f (rol8 m f).1 (rol8 m f).2 :=
  ⟨rol8_toNat m f, bit7_iff m, shiftFlags_rule _ _ f⟩

theorem ror8_rorRule (m : Byte) (f : Ccr) : RorRule m f (ror8 m f).1 (ror8 m f).2 :=
  ⟨shiftRight_or_bit7_toNat m f.c, bit0_iff m, shiftFlags_rule _ _ f⟩

theorem asl8_aslRule (m : Byte) (f : Ccr) : AslRule m f (asl8 m f).1 (asl8 m f).2 :=
  ⟨shiftLeft_one_toNat m, bit7_iff m, shiftFlags_rule _ _ f⟩

theorem asr8_asrRule (m : Byte) (f : Ccr) : AsrRule m f (asr8 m f).1 (asr8 m f).2 :=
  ⟨asr8_toNat m f, bit0_iff m, shiftFlags_rule _ _ f⟩

/-- N of LSR is reset because 0 enters at bit 7. -/
theorem lsr8_lsrRule (m : Byte) (f : Ccr) : LsrRule m f (lsr8 m f).1 (lsr8 m f).2 :=
  ⟨shiftRight_one_toNat m, by simp [lsr8, shiftFlags], bit0_iff m, shiftFlags_rule _ _ f⟩

/-- Settles O13: each instruction is a shape over its kernel. -/
theorem shiftAndRotate : Obligations.ShiftAndRotate := fun _ _ =>
  ⟨unaryOnAcc_of_accOp rfl asl8_aslRule, unaryOnAcc_of_accOp rfl asl8_aslRule,
    unaryOnMemory_of_memOp rfl asl8_aslRule,
    unaryOnAcc_of_accOp rfl lsr8_lsrRule, unaryOnAcc_of_accOp rfl lsr8_lsrRule,
    unaryOnMemory_of_memOp rfl lsr8_lsrRule,
    unaryOnAcc_of_accOp rfl asr8_asrRule, unaryOnAcc_of_accOp rfl asr8_asrRule,
    unaryOnMemory_of_memOp rfl asr8_asrRule,
    unaryOnAcc_of_accOp rfl rol8_rolRule, unaryOnAcc_of_accOp rfl rol8_rolRule,
    unaryOnMemory_of_memOp rfl rol8_rolRule,
    unaryOnAcc_of_accOp rfl ror8_rorRule, unaryOnAcc_of_accOp rfl ror8_rorRule,
    unaryOnMemory_of_memOp rfl ror8_rorRule⟩

end Sys2Proof.Machine
end

section
/-! PROOFS. LDA, STA, TAB, TBA (R170 to R173). -/

namespace Sys2Proof.Machine

open Sys2Proof

/-! ## Loads and stores of an accumulator (R170, R171) -/

/-- Of the cycles of a store, only the last is a write. -/
theorem storeAcc_onlyBytes (r : Acc) (m : Mem) (s : State) :
    OnlyBytes [(m.ea s, s.acc r)] s (storeAcc r m s) := by
  have stores := Stores.of_runs (storeAcc_runs r m s) (by simp [List.filterMap_cons])
  refine ⟨by rw [storeAcc_eq], ?_⟩
  simpa [List.filterMap_cons] using stores

/-- Settles O14: a load is the two-operand shape whose result is its operand, a store is `storeAcc`. -/
theorem loadAndStoreAccumulator : Obligations.LoadAndStoreAccumulator := fun s _ m =>
  ⟨binaryOnAcc_of_logic (fun _ v => v) rfl, binaryOnAcc_of_logic (fun _ v => v) rfl,
    ⟨_, rfl, logicFlags_rule s.a s.ccr, storeAcc_onlyBytes .a m s⟩,
    ⟨_, rfl, logicFlags_rule s.b s.ccr, storeAcc_onlyBytes .b m s⟩⟩

/-! ## Transfers between the accumulators (R172, R173) -/

/-- The fetch of a one-byte instruction moves PC on by one. -/
theorem State.fetchInstr_pc_of_one_byte {s : State} (h : s.fetchInstr.1.length = 1) :
    s.fetchInstr.2.pc = s.pc + 1 := by
  rw [fetchInstr_pc, h]; rfl

/-- An instruction that replaces an accumulator by a given byte and sets the flags of it. -/
theorem unaryOnAcc_of_copy {i : Instr} {r : Acc} {v : Byte} {s : State}
    (hi : exec i s = .next (accOp r (fun _ f => (v, logicFlags v f)) s)) :
    UnaryOnAcc i r (fun _ f r' g => r' = v ∧ LogicFlagsRule v f g) s :=
  unaryOnAcc_of_accOp hi fun _ f => ⟨rfl, logicFlags_rule v f⟩

/-- Settles O15: both are one byte long, read the byte after it, and copy. -/
theorem transferBetweenAccumulators : Obligations.TransferBetweenAccumulators := by
  refine ⟨decode_encode (i := .tab) rfl, decode_encode (i := .tba) rfl, fun s => ⟨?pc,
    makesCycles_of_one_byte rfl nofun fun _ _ => rfl,
    makesCycles_of_one_byte rfl nofun fun _ _ => rfl,
    unaryOnAcc_of_copy rfl, unaryOnAcc_of_copy rfl⟩⟩
  case pc =>
    rintro (h | h) <;> exact State.fetchInstr_pc_of_one_byte (by rw [h]; rfl)

end Sys2Proof.Machine
end

section
/-! PROOFS. CPX, INX, DEX, INS, DES, TXS, TSX (R190 to R194, R199, R200). -/

namespace Sys2Proof.Machine

open Sys2Proof

/-! ## CPX (R190) -/

/-- The high byte of CPX is an 8-bit difference whose borrow in is what the open parameter makes of the
low byte's borrow. -/
theorem cpxHigh_eq_sub8 {x m : Word} {bin : Bool}
    (hb : bin = true ↔ (lo8 x).toNat < (lo8 m).toNat ∧ Config.cpxMsBorrow = true) (f : Ccr) :
    cpxHigh x m = (sub8 (hi8 x) (hi8 m) bin f).1 := by
  have borrow : (decide ((lo8 x).toNat < (lo8 m).toNat) && Config.cpxMsBorrow) = bin := by
    rw [Bool.eq_iff_iff, hb, Bool.and_eq_true, decide_eq_true_iff]
  apply BitVec.eq_of_toNat_eq
  rw [sub8_toNat, cpxHigh, borrow]
  cases bin <;> simp [flagByte] <;> omega

/-- So N and V of CPX are those of the subtraction of the high bytes. -/
theorem cpxFlags_n_v {x m : Word} {bin : Bool}
    (hb : bin = true ↔ (lo8 x).toNat < (lo8 m).toNat ∧ Config.cpxMsBorrow = true) (f : Ccr) :
    (cpxFlags x m f).n = (sub8 (hi8 x) (hi8 m) bin f).2.n ∧
      (cpxFlags x m f).v = (sub8 (hi8 x) (hi8 m) bin f).2.v := by
  simp only [cpxFlags, cpxHigh_eq_sub8 hb f]
  exact ⟨rfl, rfl⟩

/-- Reading a 16-bit operand and setting the flags writes nothing else. -/
theorem access_setCcr_onlyFlags (m : Src16) (f : Ccr) (s : State) :
    OnlyFlags s ((m.access s).setCcr f) :=
  ⟨by apply State.eq_of_fields <;> simp, (m.access_stores s).congr rfl rfl⟩

/-- Settles O17: N and V are those of `sub8` on the high bytes. -/
theorem compareIndexRegister : Obligations.CompareIndexRegister := by
  intro s m
  refine ⟨_, rfl, access_setCcr_onlyFlags m _ s, rfl, rfl, rfl, decide_eq_true_iff,
    fun bin hb => ?_⟩
  obtain ⟨hn, hv⟩ := cpxFlags_n_v hb s.ccr
  obtain ⟨-, -, n_iff, -, v_iff, -⟩ := sub8_differenceFlags (hi8 s.x) (hi8 (m.value s)) bin s.ccr
  exact ⟨hn ▸ n_iff, hv ▸ v_iff⟩

/-! ## INX, DEX, INS, DES, TXS, TSX (R191 to R194, R199, R200) -/

theorem word_add_one_toNat (w : Word) : (w + 1).toNat = (w.toNat + 1) % 65536 :=
  BitVec.toNat_add w 1

theorem word_sub_one_toNat (w : Word) : (w - 1).toNat = (w.toNat + 65535) % 65536 := by
  rw [BitVec.toNat_sub, Nat.add_comm]; rfl

/-- Z of a 16-bit value, as the kernel computes it. -/
theorem indexFlags_eq (w : Word) (f : Ccr) :
    indexFlags w f = { f with z := decide (w.toNat = 0) } := by
  simp [indexFlags, ← BitVec.toNat_inj]

theorem indexOp_onlyX (old new : Word) (s : State) : OnlyX s (indexOp old new s) :=
  ⟨by rw [indexOp_eq], Stores.nil_of_runs (indexOp_runs old new s) rfl⟩

theorem OnlyX.setCcr {s t : State} (h : OnlyX s t) (f : Ccr) : OnlyX s (t.setCcr f) := by
  obtain ⟨fields, stores⟩ := h
  exact ⟨by rw [fields]; rfl, stores.congr rfl rfl⟩

theorem stackPointerOp_onlySp (old new : Word) (s : State) : OnlySp s (stackPointerOp old new s) :=
  ⟨by rw [stackPointerOp_eq], Stores.nil_of_runs (stackPointerOp_runs old new s) rfl⟩

/-- Settles O19: INX, DEX and TSX are `indexOp`, INS, DES and TXS are `stackPointerOp`. -/
theorem indexAndStackPointerSteps : Obligations.IndexAndStackPointerSteps := by
  intro s
  exact ⟨⟨_, rfl, word_add_one_toNat s.x, indexFlags_eq _ _, (indexOp_onlyX _ _ s).setCcr _⟩,
    ⟨_, rfl, word_sub_one_toNat s.x, indexFlags_eq _ _, (indexOp_onlyX _ _ s).setCcr _⟩,
    ⟨_, rfl, word_add_one_toNat s.sp, rfl, stackPointerOp_onlySp _ _ s⟩,
    ⟨_, rfl, word_sub_one_toNat s.sp, rfl, stackPointerOp_onlySp _ _ s⟩,
    ⟨_, rfl, word_sub_one_toNat s.x, rfl, stackPointerOp_onlySp _ _ s⟩,
    ⟨_, _, rfl, word_add_one_toNat s.sp, rfl, indexOp_onlyX _ _ s, rfl, add_sub_cancel_right s.sp 1⟩⟩

end Sys2Proof.Machine
end

section
/-! PROOFS. Jumps, subroutine calls and returns, SWI, WAI, and the wait state (R225 to R232, R287). -/

namespace Sys2Proof.Machine

open Sys2Proof

/-! ## JMP and RTS (R226, R229) -/

theorem execJmp_onlyPc (m : IndExt) (s : State) :
    OnlyPc s ((m.toMem.address s).setPc (m.toMem.ea s)) :=
  ⟨by apply State.eq_of_fields <;> simp,
    Stores.nil_of_runs (execJmp_runs rfl) (m.toMem.addressRows_written s)⟩

/-- RTS pulls PC, the high byte first (R229). -/
theorem execRts_eq (s : State) :
    let p := s.dummyRead.idle s.sp
    execRts s = .next { s with
      sp := s.sp + 2, pc := joinBytes (p.pulledByte 0) (p.pulledByte 1), bus := (p.pulled 2).bus } := by
  refine congrArg Host.Outcome.next ?_
  apply State.eq_of_fields <;>
    simp [State.pulledByte, State.pulled, State.pullWord, State.pullWordData, add_assoc]

/-- Settles O22: JMP makes no access, and RTS reads the bytes of its two pulls. -/
theorem jumpAndReturn : Obligations.JumpAndReturn := by
  intro s m
  have runs := s.dummyRead_runs.trans (s.dummyRead.idle_runs s.sp)
  have reads := (Reads.nil_of_runs runs).pulled runs 2
  have stores : Stores [] s _ := Stores.nil_of_runs (execRts_runs (execRts_eq s)) rfl
  exact ⟨⟨_, rfl, execJmp_onlyPc m s, rfl⟩,
    ⟨_, _, _, execRts_eq s, reads.congr rfl rfl, joinBytes_toNat _ _, rfl, stores⟩⟩

/-! ## BSR and JSR (R225, R227) -/

/-- Rows store what they write, where they write no address twice. -/
theorem Stores.of_written {s t : State} {rows : List Row} {ws : List (Word × Byte)}
    (h : s.bus.Runs rows t.bus) (hw : rows.filterMap Row.written = ws)
    (hn : (ws.map Prod.fst).Nodup) : Stores ws s t := by
  subst hw
  exact Stores.of_runs h hn

/-- The instructions that push a return address and go on elsewhere. -/
def IsCall (c : Instr) : Prop := (∃ rel, c = .bsr rel) ∨ ∃ m, c = .jsr m

/-- The return address of a call, as it is pushed. -/
def returnBytes (s : State) : List (Word × Byte) := [(s.sp, lo8 s.pc), (s.sp - 1, hi8 s.pc)]

theorem returnBytes_nodup (s : State) : ((returnBytes s).map Prod.fst).Nodup := by
  have apart : s.sp ≠ s.sp - 1 := by bv_omega
  simpa [returnBytes] using apart

section Calls

variable {c : Instr} {s t : State}

theorem exec_call_next (hc : IsCall c) (s : State) : ∃ t, exec c s = .next t := by
  rcases hc with ⟨rel, rfl⟩ | ⟨m, rfl⟩
  · exact ⟨_, rfl⟩
  · exact execJsr_next m s

theorem execJsr_eq {m : IndExt} (h : execJsr m s = .next t) :
    t = { s with sp := s.sp - 2, pc := t.pc, bus := t.bus, draws := t.draws } := by
  cases m with
  | ind o => cases h; apply State.eq_of_fields <;> simp
  | ext a =>
    simp only [execJsr] at h
    split at h <;> cases h <;> apply State.eq_of_fields <;> simp

/-- A call moves SP down by two and keeps everything but PC, the bus and the count of free values. -/
theorem exec_call_eq (hc : IsCall c) (h : exec c s = .next t) :
    t = { s with sp := s.sp - 2, pc := t.pc, bus := t.bus, draws := t.draws } := by
  rcases hc with ⟨rel, rfl⟩ | ⟨m, rfl⟩
  · cases h; apply State.eq_of_fields <;> simp
  · exact execJsr_eq h

/-- The cycles of a call write the return address and nothing else. -/
theorem exec_call_runs (hc : IsCall c) (h : exec c s = .next t) :
    ∃ rows, s.bus.Runs rows t.bus ∧ rows.filterMap Row.written = returnBytes s := by
  rcases hc with ⟨rel, rfl⟩ | ⟨m, rfl⟩
  · exact ⟨_, execBsr_runs h, rfl⟩
  · exact ⟨_, execJsr_runs h, by cases m <;> rfl⟩

theorem exec_call_stores (hc : IsCall c) (h : exec c s = .next t) : Stores (returnBytes s) s t := by
  obtain ⟨rows, runs, written⟩ := exec_call_runs hc h
  exact .of_written runs written (returnBytes_nodup s)

/-- A call that takes no free value keeps their count as well. -/
theorem exec_call_eq_of_draws (hc : IsCall c) (h : exec c s = .next t) (hd : t.draws = s.draws) :
    t = { s with sp := s.sp - 2, pc := t.pc, bus := t.bus } := by
  have eq := exec_call_eq hc h
  rwa [hd] at eq

end Calls

theorem execBsr_target {rel : Byte} {s t : State} (h : execBsr rel s = .next t) :
    t.pc = s.pc + sext16 rel ∧ t.draws = s.draws := by
  cases h; simp [branchTarget]

theorem execJsr_ind_target {off : Byte} {s t : State} (h : execJsr (.ind off) s = .next t) :
    t.pc = s.x + zext16 off ∧ t.draws = s.draws := by
  cases h; simp

/-- Where JSR extended goes: to its operand, unless its pushes hit its own third byte, the one just before
the return address (D14, log 6). -/
theorem execJsr_ext_target {addr : Word} {s t : State} (h : execJsr (.ext addr) s = .next t) :
    if s.sp = s.pc - 1 ∨ s.sp - 1 = s.pc - 1 then hi8 t.pc = hi8 addr
      else t.pc = addr ∧ t.draws = s.draws := by
  simp only [execJsr] at h
  split at h
  · next overlap => cases h; rw [if_pos overlap]; simp
  · next apart => cases h; rw [if_neg apart]; simp

/-- Settles O23: the frame and the stores are those of every call; the targets differ by form. -/
theorem subroutineCalls : Obligations.SubroutineCalls := by
  intro s
  refine ⟨fun rel => ?bsr, fun off => ?indexed, fun addr => ?extended⟩
  case bsr =>
    have call : IsCall (.bsr rel) := .inl ⟨_, rfl⟩
    obtain ⟨t, ht⟩ := exec_call_next call s
    obtain ⟨pc, draws⟩ := execBsr_target ht
    exact ⟨t, ht, pc, exec_call_eq_of_draws call ht draws, exec_call_stores call ht⟩
  case indexed =>
    have call : IsCall (.jsr (.ind off)) := .inr ⟨_, rfl⟩
    obtain ⟨t, ht⟩ := exec_call_next call s
    obtain ⟨pc, draws⟩ := execJsr_ind_target ht
    exact ⟨t, ht, pc, exec_call_eq_of_draws call ht draws, exec_call_stores call ht⟩
  case extended =>
    have call : IsCall (.jsr (.ext addr)) := .inr ⟨_, rfl⟩
    obtain ⟨t, ht⟩ := exec_call_next call s
    exact ⟨t, ht, execJsr_ext_target ht, exec_call_eq call ht, exec_call_stores call ht⟩

/-- Where the return address has been written to RAM below the old SP, RTS pulls it. -/
theorem pulled_return_address {s t : State} {rows : List Row} (runs : s.bus.Runs rows t.bus)
    (written : rows.filterMap Row.written = returnBytes s) (sp : t.sp = s.sp - 2)
    (low : StoresMemory s s.sp) (high : StoresMemory s (s.sp - 1)) :
    joinBytes (t.pulledByte 0) (t.pulledByte 1) = s.pc := by
  have nodup : ((rows.filterMap Row.written).map Prod.fst).Nodup := written ▸ returnBytes_nodup s
  have sp1 : t.sp + 1 = s.sp - 1 := by rw [sp]; bv_omega
  have sp2 : t.pull8.sp + 1 = s.sp := by rw [State.pull8_sp, sp]; bv_omega
  have first : t.pulledByte 0 = hi8 s.pc := by
    show t.readData (t.sp + 1) = _
    rw [sp1]
    exact State.readData_of_written runs nodup (w := (s.sp - 1, hi8 s.pc))
      (by rw [written]; simp [returnBytes]) high
  have second : t.pulledByte 1 = lo8 s.pc := by
    show t.pull8.readData (t.pull8.sp + 1) = _
    rw [sp2]
    have more : (rows ++ [Row.read (t.sp + 1)]).filterMap Row.written = returnBytes s := by
      simp [written]
    exact State.readData_of_written (runs.trans t.pull8_runs) (more ▸ returnBytes_nodup s)
      (w := (s.sp, lo8 s.pc)) (by rw [more]; simp [returnBytes]) low
  rw [first, second, joinBytes_hi8_lo8]

/-- Settles O24: the two pulls of RTS get the two bytes that the call has written. -/
theorem returnUndoesCall : Obligations.ReturnUndoesCall := by
  intro s c p hc low high
  obtain ⟨t, ht⟩ := exec_call_next hc s
  obtain ⟨rows, runs, written⟩ := exec_call_runs hc ht
  have frame := exec_call_eq hc ht
  have sp : t.sp = s.sp - 2 := by rw [frame]
  have ccr : t.ccr = s.ccr := by rw [frame]
  have before := (runs.read p).none t.sp
  refine ⟨t, _, ht, execRts_eq { t with pc := p }, ?pc, ?sp, ccr,
    Stores.nil_of_runs (execRts_runs (execRts_eq _)) rfl⟩
  case pc =>
    exact pulled_return_address (t := ({ t with pc := p } : State).dummyRead.idle t.sp) before
      (by simp [written]) sp low high
  case sp =>
    show t.sp + 2 = s.sp
    rw [sp, sub_add_cancel]

/-! ## SWI and WAI (R231, R232, R276) -/

/-- Rows that write the seven bytes of R276 stack them. -/
theorem Stores.of_stacking {s t : State} {rows : List Row} {ret : Word} (h : s.bus.Runs rows t.bus)
    (hw : rows.filterMap Row.written = stackedBytes ret s) : Stores (stackedBytes ret s) s t :=
  .of_written h hw (State.stackedBytes_nodup ret s)

/-- Settles O25: the sequence of every interrupt, after one read of the byte behind the opcode. -/
theorem softwareInterrupt : Obligations.SoftwareInterrupt := by
  intro s
  have gap := s.dummyRead_runs.trans
    (s.dummyRead.stackRegisters_runs.trans (s.dummyRead.stackRegisters.vectorGap_runs .swi))
  refine ⟨_, rfl, ⟨?sp, ?stores⟩, ?ccr, ?vector, ?frame⟩
  case sp => simp
  case stores => exact .of_stacking (s.dummyRead_runs.trans (State.takeInterrupt_swi_runs _)) rfl
  case ccr => simp
  case vector =>
    exact LoadsVector.of_runs (t := (s.dummyRead.stackRegisters.vectorGap .swi).maskInterrupts) gap .swi
  case frame => apply State.eq_of_fields <;> simp

/-- Settles O26: the registers are stacked as for an interrupt, and no vector is read. -/
theorem waitInstruction : Obligations.WaitInstruction := by
  intro s
  refine ⟨_, rfl, ⟨?sp, ?stores⟩, rfl, ?frame⟩
  case sp => simp
  case stores => exact .of_stacking (s.dummyRead_runs.trans (State.stackRegisters_runs _)) rfl
  case frame => apply State.eq_of_fields <;> simp

/-! ## The wait state (R232, R287) -/

namespace State

variable {s : State}

/-- An NMI request ends the wait. -/
theorem action_of_waiting_nmi (ho : OpenBoundary s) (hw : s.run = .waiting) (hn : NmiRequested s) :
    s.sampled.action = .wake .nmi := by
  obtain ⟨-, tsc, reset, halt⟩ := ho
  have latched := (nmiLatched_iff reset (by simp [hw])).2 hn
  simp [action, tsc, reset, halt, hw, latched]

/-- So does an unmasked IRQ request. -/
theorem action_of_waiting_irq (ho : OpenBoundary s) (hw : s.run = .waiting) (hn : ¬NmiRequested s)
    (hi : IrqRequested s) (hc : s.ccr.i = false) : s.sampled.action = .wake .irq := by
  obtain ⟨-, tsc, reset, halt⟩ := ho
  have latched := mt (nmiLatched_iff reset (by simp [hw])).1 hn
  have requested := irqRequested_sampled_iff.2 hi
  simp [action, tsc, reset, halt, hw, latched, requested, hc]

/-- Without either the wait goes on. -/
theorem action_of_waiting (ho : OpenBoundary s) (hw : s.run = .waiting) (hn : ¬NmiRequested s)
    (hi : IrqRequested s → s.ccr.i = true) : s.sampled.action = .keepWaiting := by
  obtain ⟨-, tsc, reset, halt⟩ := ho
  have latched := mt (nmiLatched_iff reset (by simp [hw])).1 hn
  rw [← irqRequested_sampled_iff] at hi
  have masked : ¬((s.sampled.irqRequested && !s.ccr.i) = true) := by
    simpa using hi
  simp [action, tsc, reset, halt, hw, latched, masked]

end State

/-- A boundary that ends the wait: I set, PC from the vector, the request withdrawn, nothing stored. -/
theorem step_of_wake {s : State} {v : InterruptVector} (hr : s.sample.resetAfter = none)
    (ha : s.sampled.action = .wake v) :
    ∃ t, step s = .next t ∧ Stores [] s.onBus t ∧ LoadsVector v.addr s.onBus t ∧ t.a = s.a ∧
      t.b = s.b ∧ t.x = s.x ∧ t.sp = s.sp ∧ t.run = .running ∧ t.ccr = { s.ccr with i := true } ∧
      t.nmiPending = (s.sampled.acknowledge v).nmiPending ∧
      t.irqLatchedInHalt = (s.sampled.acknowledge v).irqLatchedInHalt := by
  have bus : s.onBus.bus = (s.sampled.acknowledge v).bus := by simp
  have runs := (s.sampled.acknowledge v).enterHandler_runs v
  have loads := (s.sampled.acknowledge v).enterHandler_loads v
  refine ⟨((s.sampled.acknowledge v).enterHandler v).setRun .running,
    by rw [State.step_of_no_reset hr, ha]; rfl, (Stores.nil_of_runs runs rfl).congr bus rfl,
    loads.congr bus rfl rfl, ?_⟩
  cases v <;> simp [State.acknowledge]

/-- Settles O48: by the action that the requests lead to. -/
theorem waitStateExits : Obligations.WaitStateExits := by
  intro s ho hw
  by_cases nmi : NmiRequested s
  · obtain ⟨t, hstep, stores, vector, a, b, x, sp, run, ccr, latch, -⟩ :=
      step_of_wake ho.1 (State.action_of_waiting_nmi ho hw nmi)
    exact ⟨t, hstep, stores, a, b, x, sp, fun _ => ⟨run, ccr, latch, vector⟩, fun h => absurd nmi h,
      fun h => absurd nmi h⟩
  by_cases irq : IrqRequested s ∧ s.ccr.i = false
  · obtain ⟨t, hstep, stores, vector, a, b, x, sp, run, ccr, -, latch⟩ :=
      step_of_wake ho.1 (State.action_of_waiting_irq ho hw nmi irq.1 irq.2)
    exact ⟨t, hstep, stores, a, b, x, sp, fun h => absurd h nmi,
      fun _ _ _ => ⟨run, ccr, latch, vector⟩,
      fun _ masked => absurd (masked irq.1) (by simp [irq.2])⟩
  · have masked : IrqRequested s → s.ccr.i = true := by simpa using irq
    have hstep : step s = .next s.sampled.dropMaskedIrq := by
      rw [State.step_of_no_reset ho.1, State.action_of_waiting ho hw nmi masked]; rfl
    exact ⟨_, hstep, Stores.nil_of_runs (s := s.onBus) .refl rfl, rfl, rfl, rfl, rfl,
      fun h => absurd h nmi, fun _ requested unmasked => absurd ⟨requested, unmasked⟩ irq,
      fun _ _ => ⟨hw, rfl, rfl, rfl, rfl⟩⟩

/-! ## A masked wait (R232, R287; D16) -/

/-- A waiting machine with I = 1, to which neither NMI nor RESET comes, with the clocks running and no
other master at work. -/
structure MaskedWait (s : State) : Prop where
  run : s.run = .waiting
  masked : s.ccr.i = true
  nmi : s.nmiPending = false
  reset : s.lines.reset = .high
  tsc : s.lines.tsc = .low
  env : ∀ p ∈ s.env, p.lines.reset = .high ∧ p.lines.tsc = .low ∧ p.lines.nmi = .high ∧
    p.nmiPulse = false ∧ p.dma = [] ∧ p.resetAfter = none

/-- The registers and memory of `t` are those of `s`. -/
structure Unmoved (s t : State) : Prop where
  a : t.a = s.a
  b : t.b = s.b
  x : t.x = s.x
  sp : t.sp = s.sp
  pc : t.pc = s.pc
  ccr : t.ccr = s.ccr
  mem : t.mem = s.mem

theorem Unmoved.refl (s : State) : Unmoved s s := ⟨rfl, rfl, rfl, rfl, rfl, rfl, rfl⟩

theorem Unmoved.trans {s t u : State} (h : Unmoved s t) (k : Unmoved t u) : Unmoved s u :=
  ⟨k.a.trans h.a, k.b.trans h.b, k.x.trans h.x, k.sp.trans h.sp, k.pc.trans h.pc, k.ccr.trans h.ccr,
    k.mem.trans h.mem⟩

namespace MaskedWait

variable {s : State}

/-- The next sample, listed or not, brings no RESET, TSC, NMI edge or write of another master. -/
theorem sample_quiet (w : MaskedWait s) : s.sample.lines.reset = .high ∧ s.sample.lines.tsc = .low ∧
    s.nmiEdge = false ∧ s.sample.dma = [] ∧ s.sample.resetAfter = none := by
  cases he : s.env with
  | nil =>
    have sample := State.sample_of_env_nil he
    refine ⟨by rw [sample]; exact w.reset, by rw [sample]; exact w.tsc, ?_, by rw [sample],
      by rw [sample]⟩
    rw [State.nmiEdge, sample]
    cases s.lines.nmi <;> rfl
  | cons p rest =>
    obtain ⟨reset, tsc, nmi, pulse, dma, after⟩ := w.env p (by simp [he])
    have sample := State.sample_of_env_cons he
    simp [State.nmiEdge, sample, reset, tsc, nmi, pulse, dma, after]

/-- Taking the sample changes no register and no memory, and the wait stays masked. -/
theorem sampled_kept (w : MaskedWait s) : MaskedWait s.sampled ∧ Unmoved s s.sampled := by
  obtain ⟨reset, tsc, edge, dma, -⟩ := w.sample_quiet
  have released : s.busReleased = true := s.busReleased_iff.2 (.inl w.run)
  have mem : s.afterDma = s.mem := by rw [State.afterDma_of_released released, dma]; rfl
  refine ⟨⟨w.run, w.masked, ?_, reset, tsc, fun p hp => w.env p (List.mem_of_mem_tail hp)⟩,
    ⟨rfl, rfl, rfl, rfl, rfl, rfl, mem⟩⟩
  simp [State.nmiLatched, w.nmi, edge]

/-- HALT or no HALT, IRQ or no IRQ: the wait goes on. -/
theorem action_cases (w : MaskedWait s) : s.action = .holdHalt ∨ s.action = .keepWaiting := by
  cases halt : s.lines.halt
  · exact .inl (State.action_of_halt w.reset w.tsc halt (by simp [w.run]))
  · exact .inr (by simp [State.action, w.reset, w.tsc, halt, w.run, w.nmi, w.masked])

/-- Neither `halt` nor `dropMaskedIrq` moves the machine or ends the wait. -/
theorem step_kept (w : MaskedWait s) : ∃ t, step s = .next t ∧ MaskedWait t ∧ Unmoved s t := by
  obtain ⟨-, -, -, -, noReset⟩ := w.sample_quiet
  obtain ⟨still, unmoved⟩ := w.sampled_kept
  rcases still.action_cases with act | act
  · have run : s.sampled.halt.run = .waiting := by simp [State.halt_eq, w.run]
    refine ⟨s.sampled.halt, by rw [State.step_of_no_reset noReset, act]; rfl, ?_⟩
    rw [State.halt_eq] at run ⊢
    exact ⟨{ still with run := run }, { unmoved with }⟩
  · exact ⟨s.sampled.dropMaskedIrq, by rw [State.step_of_no_reset noReset, act]; rfl,
      { still with }, { unmoved with }⟩

theorem steps_kept (n : Nat) (w : MaskedWait s) :
    ∃ t, steps n s = .next t ∧ MaskedWait t ∧ Unmoved s t := by
  induction n generalizing s with
  | zero => exact ⟨s, rfl, w, .refl s⟩
  | succ n ih =>
    obtain ⟨t, hstep, wt, st⟩ := w.step_kept
    obtain ⟨u, hsteps, wu, tu⟩ := ih wt
    exact ⟨u, by simpa [steps, hstep] using hsteps, wu, st.trans tu⟩

end MaskedWait

/-- Settles O49: a masked wait is kept by every step, with registers and memory. -/
theorem maskedWaitLastsForever : Obligations.MaskedWaitLastsForever := by
  intro n s run masked nmi reset tsc env
  obtain ⟨t, hsteps, wait, kept⟩ := MaskedWait.steps_kept n ⟨run, masked, nmi, reset, tsc, env⟩
  exact ⟨t, hsteps, wait.run, kept.a, kept.b, kept.x, kept.sp, kept.pc, kept.ccr, kept.mem⟩

end Sys2Proof.Machine
end

section
/-! PROOFS. NOP, CLC, CLV, SEC, SEV, TPA (R228, R250, R252, R253, R255, R257). -/

namespace Sys2Proof.Machine

open Sys2Proof

/-! ## One byte long, two read cycles -/

theorem decode_of_encode_eq {i : Instr} {bytes : List Byte} (wf : i.wf = true)
    (h : encode i = bytes) : decode bytes = .ok (i, []) := h ▸ decode_encode wf

/-- The fetch of a given one-byte instruction moves PC on by one. -/
theorem State.fetchInstr_pc_of_eq {s : State} {i : Instr} (hl : i.length = 1)
    (h : s.fetchInstr.1 = i) : s.fetchInstr.2.pc = s.pc + 1 :=
  fetchInstr_pc_of_one_byte (by rw [h, hl])

/-- An instruction that reads the byte after it and sets the flags writes nothing else. -/
theorem changesFlagsTo_of_dummyRead {i : Instr} {s : State} {g : Ccr}
    (hi : exec i s = .next (s.dummyRead.setCcr g)) :
    ∃ t, exec i s = .next t ∧ t = { s with ccr := g, bus := t.bus } ∧ Stores [] s t :=
  ⟨_, hi, rfl, s.dummyRead_stores.congr rfl rfl⟩

/-- Settles O29: each of the five is one byte long, reads the byte after it and then sets the flags, NOP to
what they are. -/
theorem noOperationAndFlagInstructions : Obligations.NoOperationAndFlagInstructions := by
  intro s
  iterate 5 refine List.forall_mem_cons.2 ⟨⟨decode_of_encode_eq rfl rfl,
    State.fetchInstr_pc_of_eq rfl, makesCycles_of_one_byte rfl nofun fun _ _ => rfl,
    changesFlagsTo_of_dummyRead rfl⟩, ?_⟩
  exact List.forall_mem_nil _

/-! ## The condition codes as a byte (R16, R17, R257) -/

/-- A claim about all condition codes is one about six bits. -/
theorem Ccr.forall_iff_bits {p : Ccr → Prop} :
    (∀ f, p f) ↔ ∀ h i n z v c, p ⟨h, i, n, z, v, c⟩ :=
  ⟨fun all _ _ _ _ _ _ => all _, fun bits f => bits f.h f.i f.n f.z f.v f.c⟩

/-- The stored byte is 1 1 H I N Z V C (R16, R17). -/
theorem Ccr.toByte_toNat : ∀ f : Ccr, f.toByte.toNat =
    192 + 32 * f.h.toNat + 16 * f.i.toNat + 8 * f.n.toNat + 4 * f.z.toNat + 2 * f.v.toNat +
      f.c.toNat := Ccr.forall_iff_bits.2 (by decide)

/-- Condition codes stored as a byte and loaded again are as before (R257). -/
theorem Ccr.ofByte_toByte : ∀ f : Ccr, Ccr.ofByte f.toByte = f :=
  Ccr.forall_iff_bits.2 (by decide)

/-- TAP right after TPA loads the flags that are there, so I is not cleared and IRQ not delayed. -/
theorem tap_after_tpa (s : State) : ∃ u, exec .tap (s.dummyRead.setA s.ccr.toByte) = .next u ∧
    u.ccr = s.ccr ∧ u.irqInhibit = s.irqInhibit :=
  ⟨_, rfl, by simp [Ccr.ofByte_toByte], by simp [Ccr.ofByte_toByte]⟩

/-- Settles O30: TPA is a read and `setA` of the stored byte. -/
theorem transferConditionCodesToA : Obligations.TransferConditionCodesToA := by
  refine ⟨decode_of_encode_eq rfl rfl, fun s => ⟨State.fetchInstr_pc_of_eq rfl,
    makesCycles_of_one_byte rfl nofun fun _ _ => rfl, ?_⟩⟩
  obtain ⟨u, tap, ccr, delay⟩ := tap_after_tpa s
  exact ⟨_, u, rfl, rfl, s.dummyRead_stores.congr rfl rfl, s.ccr.toByte_toNat, tap, ccr, delay⟩

end Sys2Proof.Machine
end

section
/-! PROOFS. An RTI undoes an SWI, and RESET cuts a step short (R277, R284, R289, R323). -/

namespace Sys2Proof.Machine

open Sys2Proof

/-! ## The pulls of RTI after the pushes of SWI (R277, R284) -/

namespace State

/-- Pulls store nothing. -/
theorem pulled_runs_reading (t : State) (n : Nat) :
    ∃ rows, t.bus.Runs rows (t.pulled n).bus ∧ rows.filterMap Row.written = [] := by
  induction n with
  | zero => exact ⟨[], .refl, rfl⟩
  | succ n ih =>
    obtain ⟨rows, runs, reading⟩ := ih
    exact ⟨_, runs.trans (pull8_runs _), by simp [reading]⟩

/-- A byte that cycles have stored in RAM is what the pull that reaches its address gets after them. -/
theorem pulledByte_of_written {s t : State} {rows : List Row} (runs : s.bus.Runs rows t.bus)
    (nodup : ((rows.filterMap Row.written).map Prod.fst).Nodup) {w : Word × Byte}
    (written : w ∈ rows.filterMap Row.written) (stores : StoresMemory s w.1) {n : Nat}
    (reached : w.1 = t.sp + BitVec.ofNat 16 (n + 1)) : t.pulledByte n = w.2 := by
  obtain ⟨more, pulls, reading⟩ := t.pulled_runs_reading n
  have kept : (rows ++ more).filterMap Row.written = rows.filterMap Row.written := by simp [reading]
  have addr : (t.pulled n).sp + 1 = w.1 := by
    rw [pulled_sp, reached, add_assoc]; simp [BitVec.ofNat_add]
  show (t.pulled n).readData ((t.pulled n).sp + 1) = w.2
  rw [addr]
  exact readData_of_written (runs.trans pulls) (kept ▸ nodup) (kept ▸ written) stores

/-- Where RAM holds the seven bytes of R276, seven pulls get them back, the last one stored first. -/
theorem pulledBytes_of_stacked {s t : State} {rows : List Row} {ret : Word}
    (runs : s.bus.Runs rows t.bus) (written : rows.filterMap Row.written = stackedBytes ret s)
    (sp : t.sp = s.sp - 7) (stores : ∀ w ∈ stackedBytes ret s, StoresMemory s w.1) :
    (List.range 7).map t.pulledByte = (stackedBytes ret s).reverse.map Prod.snd := by
  have pull : ∀ w ∈ stackedBytes ret s, ∀ n, w.1 = s.sp - 7 + BitVec.ofNat 16 (n + 1) →
      t.pulledByte n = w.2 := fun w hw n reached =>
    pulledByte_of_written runs (written ▸ stackedBytes_nodup ret s) (written ▸ hw) (stores w hw)
      (sp ▸ reached)
  simp only [stackedBytes, List.forall_mem_cons] at pull
  obtain ⟨pcl, pch, xl, xh, a, b, f, -⟩ := pull
  simp [List.range_succ, stackedBytes, f 0 (by bv_omega), b 1 (by bv_omega), a 2 (by bv_omega),
    xh 3 (by bv_omega), xl 4 (by bv_omega), pch 5 (by bv_omega), pcl 6 (by bv_omega)]

/-- RTI after such a stacking restores the registers and the flags, and goes to the return address. -/
theorem returnFromInterrupt_of_stacked {s t : State} {rows : List Row} {ret : Word}
    (runs : s.bus.Runs rows t.bus) (written : rows.filterMap Row.written = stackedBytes ret s)
    (sp : t.sp = s.sp - 7) (stores : ∀ w ∈ stackedBytes ret s, StoresMemory s w.1) :
    t.returnFromInterrupt.a = s.a ∧ t.returnFromInterrupt.b = s.b ∧ t.returnFromInterrupt.x = s.x ∧
      t.returnFromInterrupt.sp = s.sp ∧ t.returnFromInterrupt.ccr = s.ccr ∧
      t.returnFromInterrupt.pc = ret := by
  have bytes := pulledBytes_of_stacked (runs.trans (t.idle_runs t.sp)) (by simp [written]) sp stores
  simp only [List.range_succ, List.range_zero, List.nil_append, List.cons_append, List.map_cons,
    List.map_nil, stackedBytes, List.reverse_cons, List.reverse_nil, List.cons.injEq, and_true] at bytes
  obtain ⟨f, b, a, xh, xl, pch, pcl⟩ := bytes
  rw [returnFromInterrupt_eq, f, b, a, xh, xl, pch, pcl]
  exact ⟨rfl, rfl, joinBytes_hi8_lo8 s.x, by rw [sp, sub_add_cancel], Ccr.ofByte_toByte s.ccr,
    joinBytes_hi8_lo8 ret⟩

end State

/-- Settles O28: SWI stacks the seven bytes below SP, and the first cycle of RTI leaves them there. -/
theorem returnUndoesSoftwareInterrupt : Obligations.ReturnUndoesSoftwareInterrupt := by
  intro s p stores
  have swi := s.dummyRead_runs.trans s.dummyRead.takeInterrupt_swi_runs
  have runs := swi.trans (State.dummyRead_runs { s.dummyRead.takeInterrupt .swi with pc := p })
  exact ⟨_, _, rfl, rfl, State.returnFromInterrupt_of_stacked (ret := s.pc) runs rfl (by simp) stores⟩

/-! ## The first `k` cycles of a record (R323) -/

@[simp] theorem takeCycles_zero (l : List BusEvent) : takeCycles 0 l = [] := by cases l <;> rfl

@[simp] theorem takeCycles_nil (k : Nat) : takeCycles k [] = [] := by cases k <;> rfl

/-- Events after the `k`-th cycle do not matter. -/
theorem takeCycles_append_of_le {k : Nat} {l : List BusEvent} (h : k ≤ (mpuCycles l).length)
    (more : List BusEvent) : takeCycles k (l ++ more) = takeCycles k l := by
  induction l generalizing k with
  | nil => rw [Nat.le_zero.1 h, takeCycles_zero, takeCycles_zero]
  | cons e rest ih =>
    cases k with
    | zero => rw [takeCycles_zero, takeCycles_zero]
    | succ k => cases e with
      | other addr v => exact congrArg (BusEvent.other addr v :: ·) (ih h)
      | cycle c => exact congrArg (BusEvent.cycle c :: ·) (ih (Nat.le_of_succ_le_succ h))

/-- Events that end with a cycle, the `k`-th or an earlier one, are all among the first `k` cycles. -/
theorem takeCycles_concat_cycle {k : Nat} {l : List BusEvent} (h : (mpuCycles l).length < k)
    (c : BusCycle) : takeCycles k (l ++ [.cycle c]) = l ++ [.cycle c] := by
  induction l generalizing k with
  | nil =>
    obtain ⟨k, rfl⟩ := Nat.exists_eq_succ_of_ne_zero (Nat.ne_zero_of_lt h)
    simp [takeCycles]
  | cons e rest ih =>
    obtain ⟨k, rfl⟩ := Nat.exists_eq_succ_of_ne_zero (Nat.ne_zero_of_lt h)
    cases e with
    | other addr v => exact congrArg (BusEvent.other addr v :: ·) (ih h)
    | cycle d => exact congrArg (BusEvent.cycle d :: ·) (ih (Nat.lt_of_succ_lt_succ h))

namespace Bus

/-- From an empty record on, every row is one cycle of the record. -/
theorem Runs.length_mpuCycles {b c : Bus} {rows : List Row} (h : b.Runs rows c)
    (empty : b.record = []) : (mpuCycles c.record).length = rows.length := by
  obtain ⟨new, added⟩ := h.added
  rw [added.record, empty, List.nil_append, added.fits.length_eq]

/-- The cycles `rows` lead from the bus `b` to the bus `c`; the first `k` of them lead to `m`. -/
structure CutAfter (b : Bus) (rows : List Row) (c : Bus) (k : Nat) (m : Bus) : Prop where
  runs : b.Runs (rows.take k) m
  record : m.record = takeCycles k c.record
  whole : rows.length ≤ k → m = c

/-- One more cycle is past the cut, or the cut is past everything. -/
theorem CutAfter.snoc {b c d : Bus} {rows : List Row} {row : Row} {cyc : BusCycle} {k : Nat}
    (h : ∃ m, CutAfter b rows c k m) (length : (mpuCycles c.record).length = rows.length)
    (runs : b.Runs (rows ++ [row]) d) (record : d.record = c.record ++ c.newEvents cyc) :
    ∃ m, CutAfter b (rows ++ [row]) d k m := by
  obtain ⟨m, cut⟩ := h
  by_cases le : k ≤ rows.length
  · refine ⟨m, ?_, ?_, fun past => absurd past (by simp; omega)⟩
    · rw [List.take_append_of_le_length le]; exact cut.runs
    · rw [record, takeCycles_append_of_le (length ▸ le)]; exact cut.record
  · refine ⟨d, ?_, ?_, fun _ => rfl⟩
    · rw [List.take_of_length_le (by simp; omega)]; exact runs
    · rw [record, newEvents, ← List.append_assoc, takeCycles_concat_cycle]
      rw [mpuCycles_append, mpuCycles_asEvents, List.append_nil, length]
      exact Nat.lt_of_not_le le

/-- The first `k` cycles of a record are themselves cycles in a row. -/
theorem Runs.cut {b c : Bus} {rows : List Row} (h : b.Runs rows c) (empty : b.record = []) (k : Nat) :
    ∃ m, CutAfter b rows c k m := by
  induction h with
  | refl => exact ⟨b, by rw [List.take_nil]; exact .refl, by rw [empty, takeCycles_nil], fun _ => rfl⟩
  | read addr r ih => exact CutAfter.snoc ih (r.length_mpuCycles empty) (r.read addr) (read_record ..)
  | write addr v r ih => exact CutAfter.snoc ih (r.length_mpuCycles empty) (r.write addr v) (write_record ..)
  | none addr r ih => exact CutAfter.snoc ih (r.length_mpuCycles empty) (r.none addr) (internal_record ..)
  | noWrite addr r ih =>
    exact CutAfter.snoc ih (r.length_mpuCycles empty) (r.noWrite addr) (internal_record ..)
  | shows addr v r ih =>
    exact CutAfter.snoc ih (r.length_mpuCycles empty) (r.shows addr v) (internal_record ..)

end Bus

/-- The bytes that rows write first are those that a cut of the rows writes first. -/
theorem written_take_of_writes_first (ws : List (Word × Byte)) {tail : List Row}
    (reading : tail.filterMap Row.written = []) (k : Nat) :
    ((ws.map (fun w => Row.write w.1 w.2) ++ tail).take k).filterMap Row.written = ws.take k := by
  have rest : (tail.take (k - ws.length)).filterMap Row.written = [] := by
    rw [List.filterMap_eq_nil_iff] at reading ⊢
    exact fun row h => reading row (List.mem_of_mem_take h)
  rw [List.take_append, List.filterMap_append, List.length_map, rest, ← List.map_take,
    List.filterMap_map, List.append_nil]
  exact List.filterMap_some

/-! ## A step that RESET cuts short (R289, R323) -/

namespace State

section Cut

variable {s t : State} {rows : List Row} (runs : s.bus.Runs rows t.bus) (empty : s.bus.record = [])

include runs empty

/-- RESET after `k` cycles leaves the bus as the first `k` of them do. -/
theorem cutByReset_bus (k : Nat) : ∃ m, s.bus.CutAfter rows t.bus k m ∧
    (s.cutByReset k t).bus.record = m.record ∧ (s.cutByReset k t).mem = m.mem := by
  obtain ⟨m, cut⟩ := runs.cut empty k
  obtain ⟨new, added⟩ := cut.runs.added
  have record := added.record
  rw [empty, List.nil_append, cut.record] at record
  refine ⟨m, cut, cut.record.symm, ?_⟩
  rw [added.mem, ← record]
  rfl

/-- RESET after all the cycles of a step leaves memory as the step does. -/
theorem cutByReset_mem_of_le {k : Nat} (past : (mpuCycles t.bus.record).length ≤ k) :
    (s.cutByReset k t).mem = t.mem := by
  obtain ⟨m, cut, -, mem⟩ := cutByReset_bus runs empty k
  rw [mem, cut.whole (runs.length_mpuCycles empty ▸ past)]

/-- The bytes that the cycles before RESET have written, where DBE is high. -/
theorem mpuWrites_cutByReset (drives : DrivesData s.bus.inputs) (k : Nat) :
    mpuWrites (s.cutByReset k t).bus.record = (rows.take k).filterMap Row.written := by
  obtain ⟨m, cut, record, -⟩ := cutByReset_bus runs empty k
  obtain ⟨new, added⟩ := cut.runs.added
  rw [record, added.record, empty, List.nil_append, added.driven drives]

/-- Cycles that write nothing have written nothing before RESET. -/
theorem mpuWrites_cutByReset_of_reading (reading : rows.filterMap Row.written = []) (k : Nat) :
    mpuWrites (s.cutByReset k t).bus.record = [] := by
  obtain ⟨m, cut, record, -⟩ := cutByReset_bus runs empty k
  obtain ⟨new, added⟩ := cut.runs.added
  have none : (rows.take k).filterMap Row.written = [] := by
    simpa using written_take_of_writes_first [] reading k
  have writes := added.writes
  rw [none, List.map_nil, List.map_eq_nil_iff] at writes
  rw [record, added.record, empty, List.nil_append, writes]

end Cut

/-- A sample with RESET inside the step gives the step without it, cut short. -/
theorem step_of_resetAfter {s : State} {p : Sample} {rest : List Sample} {k : Nat}
    (h : s.env = { p with resetAfter := some k } :: rest) :
    step s = s.sampled.cutStep k (step (s.setEnv ({ p with resetAfter := none } :: rest))) := by
  cases s; cases h; rfl

theorem sampled_of_other_resetAfter {s : State} {p : Sample} {rest : List Sample}
    (h : s.env = p :: rest) (r : Option Nat) :
    (s.setEnv ({ p with resetAfter := r } :: rest)).sampled = s.sampled := by
  cases s; cases h; rfl

/-- An action that refuses has fetched an unassigned opcode. -/
theorem fetchInstr_of_refused {s : State} {act : Action} {r : Refusal}
    (h : s.perform exec act = .refused r) :
    ∃ op, s.readyToExecute.fetchInstr.1 = .unassigned op := by
  cases act
  case execute =>
    rcases exec_next_or_refused s.readyToExecute.fetchInstr.1 s.readyToExecute.fetchInstr.2 with
      ⟨t, next⟩ | ⟨op, fetched, -⟩
    · exact nomatch h.symm.trans next
    · exact ⟨op, fetched⟩
  all_goals exact nomatch h

/-- A boundary at which NMI, or an IRQ that is neither masked nor delayed, is requested. -/
theorem action_of_request {s : State} (ho : OpenBoundary s) (hr : s.run = .running ∨ s.run = .halted)
    (h : NmiRequested s ∨ (IrqRequested s ∧ s.ccr.i = false ∧ s.irqInhibit = false)) :
    ∃ v, s.sampled.action = .interrupt v := by
  by_cases nmi : NmiRequested s
  · exact ⟨_, action_of_nmi ho hr nmi⟩
  · obtain ⟨irq, unmasked, undelayed⟩ := h.resolve_left nmi
    exact ⟨_, action_of_irq ho hr nmi irq unmasked undelayed⟩

/-- RESET after `k` cycles of an interrupt sequence finds the first `k` of the seven bytes stacked, where
DBE is high. -/
theorem mpuWrites_cut_interrupt {s t : State} {v : InterruptVector} (empty : s.bus.record = [])
    (drives : DrivesData s.bus.inputs) (h : s.perform exec (.interrupt v) = .next t) (k : Nat) :
    mpuWrites (s.cutByReset k t).bus.record = (stackedBytes s.pc s).take k := by
  cases h
  have runs := (s.acknowledge v).takeInterrupt_runs v
  rw [acknowledge_bus, List.append_assoc] at runs
  have stacked : stackingRows (s.acknowledge v).pc (s.acknowledge v) =
      (stackedBytes s.pc s).map (fun w => .write w.1 w.2) := by cases v <;> rfl
  rw [stacked] at runs
  refine (mpuWrites_cutByReset runs empty drives k).trans ?_
  exact written_take_of_writes_first _ (by simp) k

/-- RESET in the step of an unassigned opcode comes before the refusal, up to the end of the opcode fetch,
and has let nothing be stored; later the opcode refuses (log 25). -/
theorem cutStep_of_refused {s : State} {act : Action} {r : Refusal} (empty : s.bus.record = [])
    (h : s.perform exec act = .refused r) (k : Nat) :
    if k ≤ 1 then ∃ u, s.cutStep k (.refused r) = .next u ∧ u.run = .inReset ∧
        mpuWrites u.bus.record = []
      else s.cutStep k (.refused r) = .refused r := by
  obtain ⟨op, fetched⟩ := fetchInstr_of_refused h
  have runs : s.bus.Runs _ s.readyToExecute.fetchInstr.2.bus := s.readyToExecute.fetchInstr_runs
  have one : (mpuCycles s.readyToExecute.fetchInstr.2.bus.record).length = 1 := by
    rw [runs.length_mpuCycles empty, fetched]; rfl
  unfold cutStep
  dsimp only
  rw [one]
  split_ifs
  · exact ⟨_, rfl, rfl, mpuWrites_cutByReset_of_reading runs empty (by simp) k⟩
  · rfl

end State

/-- Settles O52: the step without RESET is an action, which makes its cycles one after another from an
empty record; with RESET the first `k` of them are left. -/
theorem resetCutsInstructionShort : Obligations.ResetCutsInstructionShort := by
  intro s p rest k env whole
  have cut : step s = s.sampled.cutStep k (step whole) := State.step_of_resetAfter env
  have sampled : whole.sampled = s.sampled := State.sampled_of_other_resetAfter env none
  have performed : step whole = s.sampled.perform exec s.sampled.action := by
    rw [← sampled]; exact State.step_of_no_reset rfl
  have sample := State.sample_of_env_cons env
  refine ⟨fun t next => ?completes, fun r refused => ?refuses,
    fun boundary run request drives => ?interrupt⟩
  case completes =>
    obtain ⟨rows, runs⟩ := State.perform_runs (performed.symm.trans next)
    exact ⟨s.sampled.cutByReset k t, by rw [cut, next]; rfl, rfl, rfl, rfl, rfl,
      State.cutByReset_mem_of_le runs rfl⟩
  case refuses =>
    rw [cut, refused]
    exact State.cutStep_of_refused rfl (performed.symm.trans refused) k
  case interrupt =>
    have requested : NmiRequested whole ∨
        (IrqRequested whole ∧ whole.ccr.i = false ∧ whole.irqInhibit = false) := by
      simp only [NmiRequested, IrqRequested, sample] at request
      exact request
    obtain ⟨v, act⟩ := State.action_of_request boundary run requested
    rw [sampled] at act
    rw [act] at performed
    refine ⟨_, by rw [cut, performed]; rfl, rfl, ?_⟩
    exact State.mpuWrites_cut_interrupt rfl (by rw [State.sampled_bus, sample]; exact drives) rfl k

end Sys2Proof.Machine
end

section
/-! PROOFS. The number of cycles of every instruction (R340). -/

namespace Sys2Proof

open Machine

/-! ## Bytes and rows of each operand form add up to its cycles -/

theorem Src8.bytes_length_add_rows_length (imm dir ind ext : Byte) (m : Src8) (s : State) :
    (m.bytes imm dir ind ext).length + (m.rows s).length = m.cycles := by
  rcases m with _ | (_ | _ | _) <;> rfl

theorem Src16.bytes_length_add_rows_length (imm dir ind ext : Byte) (m : Src16) (s : State) :
    (m.bytes imm dir ind ext).length + (m.rows s).length = m.cycles := by
  rcases m with _ | (_ | _ | _) <;> rfl

theorem Mem.bytes_length_add_storeAccRows_length (dir ind ext : Byte) (r : Acc) (m : Mem)
    (s : State) :
    (m.bytes dir ind ext).length + (storeAccRows r m s).length = m.cycles 4 6 5 := by
  cases m <;> rfl

theorem Mem.bytes_length_add_storeWordRows_length (dir ind ext : Byte) (w : Word) (m : Mem)
    (s : State) :
    (m.bytes dir ind ext).length + (storeWordRows w m s).length = m.cycles 5 7 6 := by
  cases m <;> rfl

theorem IndExt.bytes_length_add_memOpRows_length (ind ext : Byte) (k : Byte → Ccr → Byte × Ccr)
    (m : IndExt) (s : State) :
    (m.bytes ind ext).length + (memOpRows m k s).length = m.cycles 7 6 := by
  cases m <;> rfl

/-- An instruction's bytes and its rows after the fetch make the number of R340. The rows are as many in
every state: only the operand form counts. -/
theorem Instr.length_add_rows_length {i : Instr} (hi : ∀ op, i ≠ .unassigned op) (s : State) :
    i.length + (i.rows s).length = i.cycles := by
  cases i
  case unassigned op => exact absurd rfl (hi op)
  case subA m | cmpA m | sbcA m | andA m | bitA m | ldaA m | eorA m | adcA m | oraA m | addA m |
    subB m | cmpB m | sbcB m | andB m | bitB m | ldaB m | eorB m | adcB m | oraB m | addB m =>
    exact m.bytes_length_add_rows_length _ _ _ _ s
  case cpx m | lds m | ldx m => exact m.bytes_length_add_rows_length _ _ _ _ s
  case staA m | staB m => exact m.bytes_length_add_storeAccRows_length _ _ _ _ s
  case sts m | stx m => exact m.bytes_length_add_storeWordRows_length _ _ _ _ s
  case neg m | com m | lsr m | ror m | asr m | asl m | rol m | dec m | inc m | clr m =>
    exact m.bytes_length_add_memOpRows_length _ _ _ s
  case tst m | jmp m | jsr m => cases m <;> rfl
  all_goals rfl

namespace Machine

/-- Each row is one cycle of the MPU. -/
theorem Bus.Added.length_mpuCycles {b c : Bus} {rows : List Row} {new : List BusEvent}
    (h : b.Added rows c new) : (mpuCycles new).length = rows.length :=
  h.fits.length_eq.symm

/-- Settles O37: execution makes one cycle for each of the instruction's rows. -/
theorem cycleCounts : Obligations.CycleCounts := by
  intro i s assigned
  obtain ⟨t, next, runs⟩ := exec_rows assigned s
  obtain ⟨new, added⟩ := runs.added
  refine ⟨t, new, next, added.record, ?_⟩
  rw [added.length_mpuCycles]
  exact Instr.length_add_rows_length assigned s

end Machine

end Sys2Proof
end
